-- ==== Sys2Proof/Word.lean ====
section
/-! DEFINITION. The word types of the uPyLoRaWAN AES-128 core (00_scope.md R13, 10_state.md, 20_memory.md R50). -/

namespace Sys2Proof

/-- A byte: bit 7 is the most significant bit, bit 0 the least (R13). -/
abbrev Byte := BitVec 8

/-- A register-space address, 0x00 to 0x7F (R50, R82). -/
abbrev Addr := BitVec 7

/-- A bus transaction as one number: bit 15 is W, bits 14..8 are A, bits 7..0 are D (R81). -/
abbrev BusWord := BitVec 16

/-- A 16-byte array, element 0 first (R13): keys, cipher blocks, round key, subkeys, chain value. -/
abbrev Block := Vector Byte 16

/-- A 4-byte array, element 0 first: the device address and the MIC. -/
abbrev Quad := Vector Byte 4

/-- The AES state, 4 rows by 4 columns: row `r` and column `c` is `m[r][c]` (R36). -/
abbrev AesState := Vector (Vector Byte 4) 4

/-- The 64-byte data buffer (R28). -/
abbrev Buffer := Vector Byte 64

end Sys2Proof
end

