-- ==== Sys2Proof/Syntax.lean ====
section
/-! DEFINITION. The instructions: one constructor per row of spec/opcode_table.json. Two rows have format BUS
(host transactions, R81) and thirteen have format CMD (command bytes, R83, R85). -/

namespace Sys2Proof

/-- The key selector KSEL (R83, R84): 0 names `KEY_APP`, 1 names `KEY_NWK`. -/
inductive KeySel where
  | app
  | nwk
deriving DecidableEq, Repr

/-- The two encodings (R80): a 16-bit bus transaction, and the 8-bit command byte in CMD. -/
inductive Format where
  | bus
  | cmd
deriving DecidableEq, Repr

/-- One constructor per row of the opcode table. -/
inductive Instr where
  /-- `RD`: host read of address `a` (R56). The data field `d` is ignored by the core (R81). -/
  | rd (a : Addr) (d : Byte)
  /-- `WR`: host write of byte `v` at address `a` (R57). -/
  | wr (a : Addr) (v : Byte)
  /-- `LDSTATE` (R102). -/
  | ldstate
  /-- `STSTATE` (R103). -/
  | ststate
  /-- `LDKEY.A`, `LDKEY.N` (R110). -/
  | ldkey (k : KeySel)
  /-- `STRK` (R111). -/
  | strk
  /-- `SUBBYTES` (R105). -/
  | subbytes
  /-- `SHIFTROWS` (R106). -/
  | shiftrows
  /-- `MIXCOLUMNS` (R107). -/
  | mixcolumns
  /-- `KEYSTEP` (R108). -/
  | keystep
  /-- `ADDROUNDKEY` (R109). -/
  | addroundkey
  /-- `AESENC.A`, `AESENC.N` (R131). -/
  | aesenc (k : KeySel)
  /-- `DBL` (R153). -/
  | dbl
  /-- `PAYLOAD` (R142). -/
  | payload
  /-- `MIC` (R154). -/
  | mic
deriving DecidableEq, Repr

/-- Which of the two encodings an instruction has (R91). -/
def Instr.format : Instr → Format
  | .rd _ _ => .bus
  | .wr _ _ => .bus
  | .ldstate => .cmd
  | .ststate => .cmd
  | .ldkey _ => .cmd
  | .strk => .cmd
  | .subbytes => .cmd
  | .shiftrows => .cmd
  | .mixcolumns => .cmd
  | .keystep => .cmd
  | .addroundkey => .cmd
  | .aesenc _ => .cmd
  | .dbl => .cmd
  | .payload => .cmd
  | .mic => .cmd

end Sys2Proof
end

