-- ==== Sys2Proof/WellFormed.lean ====
section
/-! DEFINITION. Well-formedness. The operand types leave no operand out of range; what is left to check is
what the notation of 30_encoding.md R89 can write, and what a program may consist of (R80). -/

namespace Sys2Proof

/-- Check: the canonical encoding of a read has `D = 0x00` (R81, R89). A read with another `D` is legal
and decodes (R87); it is the same read. -/
def Instr.canonical : Instr → Bool
  | .rd _ d => d == 0
  | .wr _ _ => true
  | .ldstate => true
  | .ststate => true
  | .ldkey _ => true
  | .strk => true
  | .subbytes => true
  | .shiftrows => true
  | .mixcolumns => true
  | .keystep => true
  | .addroundkey => true
  | .aesenc _ => true
  | .dbl => true
  | .payload => true
  | .mic => true

/-- An instruction is well formed when it is canonical. -/
abbrev Instr.WellFormed (i : Instr) : Prop := i.canonical = true

/-- Check: the units of a program are host transactions; a command byte reaches the core only as the data
byte of a write to CMD (R80, R88). -/
def Instr.isTransaction (i : Instr) : Bool := i.format == .bus

/-- A program: a finite sequence of well-formed host transactions (R12, R80). -/
abbrev WellFormedProgram (p : List Instr) : Prop :=
  (p.all fun i => i.isTransaction && i.canonical) = true

end Sys2Proof
end

