-- ==== Sys2Proof/Decode.lean ====
section
/-! DEFINITION. Decoding the two formats of 30_encoding.md, total and rejecting by name; then the encoder. -/

namespace Sys2Proof

/-- Why bytes are no instruction (R86; `truncated`: a bus transaction has two bytes, R81). -/
inductive DecodeError where
  /-- Fewer bytes than the format has. -/
  | truncated
  /-- A command byte with one of bits 7..5 set. -/
  | reservedBits
  /-- A command byte with OP 0x0, 0xE or 0xF. -/
  | unassignedOp
  /-- A command byte whose KSEL is not the one its operation allows (R84). -/
  | keySelect
deriving DecidableEq, Repr

/-- The key selector that bit 4 of a command byte names (R83). -/
def keySelOf (b : Byte) : KeySel := if b.getLsbD 4 then .nwk else .app

/-- An operation that is legal only with KSEL = `want` (R84). -/
def onlyWith (want k : KeySel) (i : Instr) : Except DecodeError Instr :=
  if k = want then .ok i else .error .keySelect

/-- Decoding a command byte: bits 7..5 must be 0, bit 4 is KSEL, bits 3..0 are OP (R83 to R86). -/
def decodeCommand (b : Byte) : Except DecodeError Instr :=
  if b.extractLsb' 5 3 ≠ 0 then .error .reservedBits else
  match (b.extractLsb' 0 4).toNat with
  | 0x1 => onlyWith .app (keySelOf b) .ldstate
  | 0x2 => onlyWith .app (keySelOf b) .ststate
  | 0x3 => .ok (.ldkey (keySelOf b))
  | 0x4 => onlyWith .app (keySelOf b) .strk
  | 0x5 => onlyWith .app (keySelOf b) .subbytes
  | 0x6 => onlyWith .app (keySelOf b) .shiftrows
  | 0x7 => onlyWith .app (keySelOf b) .mixcolumns
  | 0x8 => onlyWith .app (keySelOf b) .keystep
  | 0x9 => onlyWith .app (keySelOf b) .addroundkey
  | 0xA => .ok (.aesenc (keySelOf b))
  | 0xB => onlyWith .app (keySelOf b) .dbl
  | 0xC => onlyWith .app (keySelOf b) .payload
  | 0xD => onlyWith .nwk (keySelOf b) .mic
  | _ => .error .unassignedOp

/-- Decoding a bus transaction: bit 15 is W (1 = write), bits 14..8 the address, bits 7..0 the data (R81).
Every 16-bit value is a legal transaction (R87). -/
def decodeTransaction (w : BusWord) : Instr :=
  if w.getLsbD 15 then .wr (w.extractLsb' 8 7) (w.extractLsb' 0 8)
  else .rd (w.extractLsb' 8 7) (w.extractLsb' 0 8)

/-- The decoder on bytes as they travel: a transaction is sent most significant byte first (R81). It returns
the instruction and the bytes after it. -/
def decode : Format → List Byte → Except DecodeError (Instr × List Byte)
  | .bus, hi :: lo :: rest => .ok (decodeTransaction (hi ++ lo), rest)
  | .bus, [_] => .error .truncated
  | .bus, [] => .error .truncated
  | .cmd, b :: rest =>
    match decodeCommand b with
    | .ok i => .ok (i, rest)
    | .error e => .error e
  | .cmd, [] => .error .truncated

/-- The instruction the decoder reads from a word numbered as spec/opcode_table.json numbers it: 16 bits are a
bus transaction, laid out high byte first; 8 bits are a command byte. -/
def decodeTableWord (nbits w : Nat) : Option Instr :=
  match nbits with
  | 8 =>
    if w < 256 then
      match decode .cmd [BitVec.ofNat 8 w] with
      | .ok (i, _) => some i
      | .error _ => none
    else none
  | 16 =>
    if w < 65536 then
      match decode .bus [BitVec.ofNat 8 (w / 256), BitVec.ofNat 8 w] with
      | .ok (i, _) => some i
      | .error _ => none
    else none
  | _ => none

/-! ## The encoder -/

/-- The KSEL bit (R83). -/
def KeySel.bit : KeySel → BitVec 1
  | .app => 0#1
  | .nwk => 1#1

/-- The command byte `000 KSEL OP` (R83). -/
def commandByte (k : KeySel) (op : BitVec 4) : Byte := 0#3 ++ k.bit ++ op

/-- The bytes of an instruction: two for a transaction, high byte first (R81, R89), one for a command
(the legal bytes of R85). -/
def encode : Instr → List Byte
  | .rd a d => [0#1 ++ a, d]
  | .wr a v => [1#1 ++ a, v]
  | .ldstate => [commandByte .app 0x1]
  | .ststate => [commandByte .app 0x2]
  | .ldkey k => [commandByte k 0x3]
  | .strk => [commandByte .app 0x4]
  | .subbytes => [commandByte .app 0x5]
  | .shiftrows => [commandByte .app 0x6]
  | .mixcolumns => [commandByte .app 0x7]
  | .keystep => [commandByte .app 0x8]
  | .addroundkey => [commandByte .app 0x9]
  | .aesenc k => [commandByte k 0xA]
  | .dbl => [commandByte .app 0xB]
  | .payload => [commandByte .app 0xC]
  | .mic => [commandByte .nwk 0xD]

/-- A transaction's word for the host's queue: `((W << 7 | A) << 8) | D` (R81, R89). `none` for a command. -/
def encodeTransaction : Instr → Option BusWord
  | .rd a d => some (0#1 ++ a ++ d)
  | .wr a v => some (1#1 ++ a ++ v)
  | .ldstate => none
  | .ststate => none
  | .ldkey _ => none
  | .strk => none
  | .subbytes => none
  | .shiftrows => none
  | .mixcolumns => none
  | .keystep => none
  | .addroundkey => none
  | .aesenc _ => none
  | .dbl => none
  | .payload => none
  | .mic => none

end Sys2Proof
end

