-- ==== Sys2Proof/Machine/Bytes.lean ====
section
/-! DEFINITION. The byte and block arithmetic of the families: doubling in the field, the substitution box, the
four state transformations, the key step and the subkey doubling (00_scope.md R15, 40_aes_round_ops.md,
43_mic_generator.md R150). All are functions of bytes alone. -/

namespace Sys2Proof.Machine

/-! ## Bytes -/

/-- `xtime(b)` (R15, R101): doubling with a conditional XOR of 0x1B when the top bit was set, kept to 8 bits. -/
def xtime (b : Byte) : Byte := if b.getLsbD 7 then (b <<< 1) ^^^ 0x1B else b <<< 1

/-- `mul2(b)` (R15). -/
def mul2 (b : Byte) : Byte := xtime b

/-- `mul3(b)` (R15). -/
def mul3 (b : Byte) : Byte := xtime b ^^^ b

/-- The substitution box (R104): row `X`, column `Y` holds the entry for input byte `0xXY`. -/
def sboxRows : Vector (Vector Byte 16) 16 :=
  #v[#v[0x63, 0x7C, 0x77, 0x7B, 0xF2, 0x6B, 0x6F, 0xC5, 0x30, 0x01, 0x67, 0x2B, 0xFE, 0xD7, 0xAB, 0x76],
     #v[0xCA, 0x82, 0xC9, 0x7D, 0xFA, 0x59, 0x47, 0xF0, 0xAD, 0xD4, 0xA2, 0xAF, 0x9C, 0xA4, 0x72, 0xC0],
     #v[0xB7, 0xFD, 0x93, 0x26, 0x36, 0x3F, 0xF7, 0xCC, 0x34, 0xA5, 0xE5, 0xF1, 0x71, 0xD8, 0x31, 0x15],
     #v[0x04, 0xC7, 0x23, 0xC3, 0x18, 0x96, 0x05, 0x9A, 0x07, 0x12, 0x80, 0xE2, 0xEB, 0x27, 0xB2, 0x75],
     #v[0x09, 0x83, 0x2C, 0x1A, 0x1B, 0x6E, 0x5A, 0xA0, 0x52, 0x3B, 0xD6, 0xB3, 0x29, 0xE3, 0x2F, 0x84],
     #v[0x53, 0xD1, 0x00, 0xED, 0x20, 0xFC, 0xB1, 0x5B, 0x6A, 0xCB, 0xBE, 0x39, 0x4A, 0x4C, 0x58, 0xCF],
     #v[0xD0, 0xEF, 0xAA, 0xFB, 0x43, 0x4D, 0x33, 0x85, 0x45, 0xF9, 0x02, 0x7F, 0x50, 0x3C, 0x9F, 0xA8],
     #v[0x51, 0xA3, 0x40, 0x8F, 0x92, 0x9D, 0x38, 0xF5, 0xBC, 0xB6, 0xDA, 0x21, 0x10, 0xFF, 0xF3, 0xD2],
     #v[0xCD, 0x0C, 0x13, 0xEC, 0x5F, 0x97, 0x44, 0x17, 0xC4, 0xA7, 0x7E, 0x3D, 0x64, 0x5D, 0x19, 0x73],
     #v[0x60, 0x81, 0x4F, 0xDC, 0x22, 0x2A, 0x90, 0x88, 0x46, 0xEE, 0xB8, 0x14, 0xDE, 0x5E, 0x0B, 0xDB],
     #v[0xE0, 0x32, 0x3A, 0x0A, 0x49, 0x06, 0x24, 0x5C, 0xC2, 0xD3, 0xAC, 0x62, 0x91, 0x95, 0xE4, 0x79],
     #v[0xE7, 0xC8, 0x37, 0x6D, 0x8D, 0xD5, 0x4E, 0xA9, 0x6C, 0x56, 0xF4, 0xEA, 0x65, 0x7A, 0xAE, 0x08],
     #v[0xBA, 0x78, 0x25, 0x2E, 0x1C, 0xA6, 0xB4, 0xC6, 0xE8, 0xDD, 0x74, 0x1F, 0x4B, 0xBD, 0x8B, 0x8A],
     #v[0x70, 0x3E, 0xB5, 0x66, 0x48, 0x03, 0xF6, 0x0E, 0x61, 0x35, 0x57, 0xB9, 0x86, 0xC1, 0x1D, 0x9E],
     #v[0xE1, 0xF8, 0x98, 0x11, 0x69, 0xD9, 0x8E, 0x94, 0x9B, 0x1E, 0x87, 0xE9, 0xCE, 0x55, 0x28, 0xDF],
     #v[0x8C, 0xA1, 0x89, 0x0D, 0xBF, 0xE6, 0x42, 0x68, 0x41, 0x99, 0x2D, 0x0F, 0xB0, 0x54, 0xBB, 0x16]]

theorem high_digit_lt (b : Byte) : b.toNat / 16 < 16 := by have := b.isLt; omega

theorem low_digit_lt (b : Byte) : b.toNat % 16 < 16 := Nat.mod_lt _ (by decide)

/-- `SBOX[b]` (R104): row the high hex digit of `b`, column the low one. -/
def sbox (b : Byte) : Byte :=
  (sboxRows[b.toNat / 16]'(high_digit_lt b))[b.toNat % 16]'(low_digit_lt b)

/-! ## Blocks -/

/-- Element-wise XOR of two arrays (R14). -/
def xorBlock (x y : Block) : Block := Vector.ofFn fun j => x[j] ^^^ y[j]

/-- The all-zero block (R151). -/
def zeroBlock : Block := Vector.ofFn fun _ => 0x00

/-- Byte `j` of a 16-byte array read as one number with element 0 the most significant, shifted left by one:
bit 7 of byte `j + 1` enters at bit 0, and a zero at the end (R150). -/
def shiftedByte (x : Block) (j : Nat) (h : j < 16) : Byte :=
  (x[j] <<< 1) ||| (if h' : j + 1 < 16 then x[j + 1] >>> 7 else 0x00)

/-- `dbl(X)` (R150): the shift, then 0x87 XORed into the last byte if the old top bit was 1. -/
def dblBlock (x : Block) : Block :=
  Vector.ofFn fun j =>
    if x[0].getLsbD 7 ∧ j.val = 15 then shiftedByte x j.val j.isLt ^^^ 0x87 else shiftedByte x j.val j.isLt

/-! ## The AES state -/

/-- A 4 by 4 array from its entries by row and column. -/
def stateOf (f : Fin 4 → Fin 4 → Byte) : AesState := Vector.ofFn fun r => Vector.ofFn fun c => f r c

theorem block_index_lt (r c : Fin 4) : r.val + 4 * c.val < 16 := by omega

theorem row_index_lt (j : Fin 16) : j.val % 4 < 4 := Nat.mod_lt _ (by decide)

theorem col_index_lt (j : Fin 16) : j.val / 4 < 4 := by omega

/-- The byte of a 16-byte array that lines up with row `r` and column `c`: index `r + 4*c` (R100). -/
def blockAt (b : Block) (r c : Fin 4) : Byte := b[r.val + 4 * c.val]'(block_index_lt r c)

/-- A block as a state, column by column (R100, R102). -/
def blockToState (b : Block) : AesState := stateOf fun r c => blockAt b r c

/-- A state as a block, column by column (R100, R103). -/
def stateToBlock (m : AesState) : Block :=
  Vector.ofFn fun j => (m[j.val % 4]'(row_index_lt j))[j.val / 4]'(col_index_lt j)

/-- SUBBYTES on a state (R105). -/
def subBytes (m : AesState) : AesState := stateOf fun r c => sbox m[r][c]

/-- SHIFTROWS on a state (R106): row `r` moves `r` columns to the left, around the end. -/
def shiftRows (m : AesState) : AesState := stateOf fun r c => m[r][c + r]

/-- One column of MIXCOLUMNS, top row first (R107). -/
def mixColumn (a0 a1 a2 a3 : Byte) : Quad :=
  #v[mul2 a0 ^^^ mul3 a1 ^^^ a2 ^^^ a3,
     a0 ^^^ mul2 a1 ^^^ mul3 a2 ^^^ a3,
     a0 ^^^ a1 ^^^ mul2 a2 ^^^ mul3 a3,
     mul3 a0 ^^^ a1 ^^^ a2 ^^^ mul2 a3]

/-- MIXCOLUMNS on a state (R107): each column on its own. -/
def mixColumns (m : AesState) : AesState :=
  stateOf fun r c => (mixColumn m[0][c] m[1][c] m[2][c] m[3][c])[r]

/-- ADDROUNDKEY on a state (R109). -/
def addRoundKey (k : Block) (m : AesState) : AesState := stateOf fun r c => m[r][c] ^^^ blockAt k r c

/-! ## The key step -/

/-- Element-wise XOR of two 4-byte words (R14). -/
def xorQuad (x y : Quad) : Quad := Vector.ofFn fun j => x[j] ^^^ y[j]

/-- The 4-byte word `w` of a 16-byte key, bytes `4*w` to `4*w + 3` (R108). -/
def keyWord (k : Block) (w : Fin 4) : Quad := Vector.ofFn fun j => k[4 * w.val + j.val]

/-- The temporary `t[0..3]` of KEYSTEP (R108): the last word rotated left by one byte and substituted, the
round constant XORed into its first byte. -/
def keyTemp (k : Block) (rcon : Byte) : Quad := #v[sbox k[13] ^^^ rcon, sbox k[14], sbox k[15], sbox k[12]]

/-- The next round key (R108): each new word is the old word XOR the new word before it, the first XOR `t`. -/
def nextRoundKey (k : Block) (rcon : Byte) : Block :=
  let w0 := xorQuad (keyWord k 0) (keyTemp k rcon)
  let w1 := xorQuad (keyWord k 1) w0
  let w2 := xorQuad (keyWord k 2) w1
  let w3 := xorQuad (keyWord k 3) w2
  #v[w0[0], w0[1], w0[2], w0[3], w1[0], w1[1], w1[2], w1[3],
     w2[0], w2[1], w2[2], w2[3], w3[0], w3[1], w3[2], w3[3]]

end Sys2Proof.Machine
end

