-- ==== Sys2Proof/Config.lean ====
section
/-! DEFINITION. The parameters of 00_scope.md R9: the values this hardware takes, and the open ones as
constants without a body (free values: nothing in Lean can evaluate them or prove a value of them). `T_BUSY` is
neither: a command's completion has no duration (R196), and when it happens is data in State (`State.schedule`). -/

namespace Sys2Proof

/-- `INITIAL_ARK` (R9, R10, decision D1; 90_conflicts.md C1): whether the unmodified cipher key is added
before the first full round. Every procedure that encrypts takes it as an argument, and only the commands'
meanings apply it to this value. DESIGN CHOICE of the spec, see notes/assumptions/1.md. -/
def Config.initialArk : Bool := true

/-- `BUF_SIZE` (R8, R9): capacity of the data buffer in bytes. -/
def Config.bufSize : Nat := 64

/-- `LEN_MAX_PAYLOAD` (R9, R172): the largest `LEN` PAYLOAD accepts. -/
def Config.lenMaxPayload : Nat := 64

/-- `LEN_MIN_MIC` (R9, R172): the smallest `LEN` MIC accepts. -/
def Config.lenMinMic : Nat := 1

/-- `LEN_MAX_MIC` (R9, R172): the largest `LEN` MIC accepts. -/
def Config.lenMaxMic : Nat := 64

/-- Free value: the byte a host read of an address other than STATUS returns while BUSY = 1 (R63, U2),
drawn per read; it may depend on the draw, the address and every register. That it depends on nothing else is
a DESIGN CHOICE, see notes/assumptions/3.md. -/
opaque Config.busyRead : Nat → Addr → List Byte → Byte

/-- Free value: the byte the core returns in the slot of a write transaction (R81, U12). It may depend on the draw, the
address, the byte written and every register. That it depends on nothing else is a DESIGN CHOICE, see
notes/assumptions/3.md. -/
opaque Config.writeReturn : Nat → Addr → Byte → List Byte → Byte

/-- Free value: `RESET_DRAW` (R9, R43, U1), the byte at a position of the register file after a reset. The
arguments are the draw number, the register bytes before that reset (none at power-on) and the position.
DESIGN CHOICE, see notes/assumptions/2.md. -/
opaque Config.resetDraw : Nat → List Byte → Nat → Byte

end Sys2Proof
end

