-- ==== Sys2Proof/Machine/State.lean ====
section
/-! DEFINITION. The state of the core (10_state.md), its stops, and the state after reset (R43, R191). -/

namespace Sys2Proof.Machine

/-- The error field STATUS.ERR (R33): codes 4 to 7 never occur (U11). -/
inductive ErrCode where
  /-- Code 0: no error. -/
  | none
  /-- Code 1: ILLEGAL_CMD (R171). -/
  | illegalCmd
  /-- Code 2: LEN_RANGE (R172). -/
  | lenRange
  /-- Code 3: BUSY_ACCESS (R174). -/
  | busyAccess
deriving DecidableEq, Repr

/-- What the host issues next: a transaction, or one of the two pseudo-instructions whose expansion depends on a byte
that is read (R90). The other pseudo-instructions are lists of transactions (Pseudo.lean). -/
inductive HostOp where
  /-- One 16-bit bus transaction, not yet decoded (R80, R81). -/
  | transaction (w : BusWord)
  /-- `WAIT`: `RD STATUS` repeated until the byte returned has bit 0 (BUSY) = 0. -/
  | wait
  /-- `ACK`: `RD STATUS -> v` then `WR STATUS, v`. -/
  | ack
deriving DecidableEq, Repr

/-- Who acts next: an execution is an interleaving of the host's transactions and the sequencer's completion steps
(R11, R65), and a reset may come at any point (R190). -/
inductive Turn where
  /-- The host issues its next transaction. With nothing left in its program it does nothing. -/
  | host
  /-- The running command completes (R62). With no command running the sequencer does nothing. -/
  | sequencer
  /-- The external reset (R190). -/
  | reset
deriving DecidableEq, Repr

/-- Faults. -/
inductive Fault where
  /-- Raised by `step` alone, when BUSY = 1 and CMD holds no legal command byte. Only an accepted, hence
  legal, byte ever enters CMD with BUSY = 1 (R61), so no run from reset reaches it. Safe: the machine stops
  where the spec describes no state. -/
  | busyWithoutCommand
deriving DecidableEq, Repr

/-- Refusals. -/
inductive Refusal where
  /-- Raised by `exec` for an instruction without a meaning. Safe. No arm raises it: every instruction has
  its meaning. -/
  | notModelled (mnemonic : String)
deriving DecidableEq, Repr

/-- The core's registers, what happens next, and the host side of the port. Flat: one field a register. -/
structure State where
  /-- `KEY_APP[0..15]` (R21). -/
  keyApp : Block
  /-- `KEY_NWK[0..15]` (R22). -/
  keyNwk : Block
  /-- `DEVADDR[0..3]`, stored order (R23). -/
  devAddr : Quad
  /-- `FCNT_LO` (R24). -/
  fcntLo : Byte
  /-- `FCNT_HI` (R24). -/
  fcntHi : Byte
  /-- `LEN` (R25). -/
  len : Byte
  /-- `CMD`: the last accepted command byte (R29). -/
  cmd : Byte
  /-- `STATUS.BUSY` (R31). -/
  busy : Bool
  /-- `STATUS.DONE` (R32). -/
  done : Bool
  /-- `STATUS.ERR` (R33). -/
  err : ErrCode
  /-- `RCON` (R34). -/
  rcon : Byte
  /-- `ROUND`, 4 bits (R35). -/
  round : BitVec 4
  /-- `MIC[0..3]` (R27). -/
  mic : Quad
  /-- `BLOCK[0..15]` (R26). -/
  block : Block
  /-- `BUF[0..63]` (R28). -/
  buf : Buffer
  /-- `STATE[0..3][0..3]` (R36). -/
  state : AesState
  /-- `RK[0..15]` (R37). -/
  rk : Block
  /-- `K1[0..15]` (R38). -/
  k1 : Block
  /-- `K2[0..15]` (R38). -/
  k2 : Block
  /-- `CHAIN[0..15]` (R39). -/
  chain : Block
  /-- The rest of the host's program, first thing first (R12, R80). -/
  program : List HostOp
  /-- Who acts, first turn first: the turns before the next of the sequencer's are the remaining busy time of the
  running command (R41, R196). -/
  schedule : List Turn
  /-- The values the reads returned, the latest first (R12: the observation of a program). -/
  reads : List Byte
  /-- The byte returned in the slot of the last transaction (R81). -/
  returned : Byte
  /-- The model's own counter of draws: how many free values have been used. -/
  draws : Nat
deriving DecidableEq, Repr

/-- The `n` bytes a reset leaves from position `base` on: the draw `RESET_DRAW` (R9, U1). -/
def resetBytes (draw : Nat) (before : List Byte) (base n : Nat) : Vector Byte n :=
  Vector.ofFn fun i => Config.resetDraw draw before (base + i.val)

/-- The state a reset leaves (R43, R191): STATUS = 0x00, CMD = 0x00, the sequencer idle; every other register
holds a drawn byte. A register with an address is drawn at its address; STATE, RK, K1, K2 and CHAIN are drawn
at positions 0x80 on. Nothing is pending. -/
def State.afterReset (draw : Nat) (before : List Byte) : State where
  keyApp := resetBytes draw before 0x00 16
  keyNwk := resetBytes draw before 0x10 16
  devAddr := resetBytes draw before 0x20 4
  fcntLo := Config.resetDraw draw before 0x24
  fcntHi := Config.resetDraw draw before 0x25
  len := Config.resetDraw draw before 0x26
  cmd := 0x00
  busy := false
  done := false
  err := .none
  rcon := Config.resetDraw draw before 0x29
  round := (Config.resetDraw draw before 0x2A).setWidth 4
  mic := resetBytes draw before 0x2C 4
  block := resetBytes draw before 0x30 16
  buf := resetBytes draw before 0x40 64
  state := Vector.ofFn fun r => resetBytes draw before (0x80 + 4 * r.val) 4
  rk := resetBytes draw before 0x90 16
  k1 := resetBytes draw before 0xA0 16
  k2 := resetBytes draw before 0xB0 16
  chain := resetBytes draw before 0xC0 16
  program := []
  schedule := []
  reads := []
  returned := 0x00
  draws := draw + 1

/-- The core right after its first reset, the initial state of every run (R190). The open register values are
`RESET_DRAW`, notes/assumptions/2.md. -/
def State.reset : State := State.afterReset 0 []

end Sys2Proof.Machine
end

