-- ==== Sys2Proof/Machine/Flags.lean ====
section
/-! DEFINITION. The only flags of the core, the fields of STATUS (10_state.md R30 to R33, R40), as a byte and as
what a write to STATUS does to them (20_memory.md R59). -/

namespace Sys2Proof.Machine

/-- The 3-bit code of an error (R33). -/
def ErrCode.code : ErrCode → BitVec 3
  | .none => 0
  | .illegalCmd => 1
  | .lenRange => 2
  | .busyAccess => 3

/-- A flag as one bit. -/
def flagBit (b : Bool) : BitVec 1 := if b then 1#1 else 0#1

/-- The STATUS byte `(ERR << 2) | (DONE << 1) | BUSY`; bits 7..5 read as 0 (R30, R56). -/
def statusByte (s : State) : Byte := 0#3 ++ s.err.code ++ flagBit s.done ++ flagBit s.busy

/-- DONE after a write of `v` to STATUS: bit 1 written as 1 clears it (R59). -/
def doneAfterAck (v : Byte) (done : Bool) : Bool := if v.getLsbD 1 then false else done

/-- ERR after a write of `v` to STATUS: any of bits 4..2 written as 1 clears the whole field (R59). -/
def errAfterAck (v : Byte) (err : ErrCode) : ErrCode := if v.extractLsb' 2 3 ≠ 0 then .none else err

/-- ERR after raising `e`: the first error is kept (R173). -/
def errAfterRaise (e err : ErrCode) : ErrCode := if err = .none then e else err

end Sys2Proof.Machine
end

