-- ==== Sys2Proof/Machine/Operands.lean ====
section
/-! DEFINITION. The operand forms: the address of a transaction as a location of the register space (20_memory.md
R50), reading and writing a location, the key selector (10_state.md R21, R22), and the bytes of BUF the
sequencer addresses by index (R70). -/

namespace Sys2Proof.Machine

/-- The locations of the register space (R50). The reserved address 0x2B has no storage (R58). -/
inductive Loc where
  | keyApp (i : Fin 16)
  | keyNwk (i : Fin 16)
  | devAddr (i : Fin 4)
  | fcntLo
  | fcntHi
  | len
  | cmd
  | status
  | rcon
  | round
  | reserved
  | mic (i : Fin 4)
  | block (i : Fin 16)
  | buf (i : Fin 64)
deriving DecidableEq, Repr

/-- The address of CMD (R29). -/
def cmdAddr : Addr := 0x27#7

/-- The address of STATUS (R30). -/
def statusAddr : Addr := 0x28#7

/-- The map of R50 from addresses to locations. -/
def locOf (a : Addr) : Loc :=
  if h : a.toNat < 0x10 then .keyApp ⟨a.toNat, h⟩
  else if h : a.toNat < 0x20 then .keyNwk ⟨a.toNat - 0x10, by omega⟩
  else if h : a.toNat < 0x24 then .devAddr ⟨a.toNat - 0x20, by omega⟩
  else if a.toNat = 0x24 then .fcntLo
  else if a.toNat = 0x25 then .fcntHi
  else if a.toNat = 0x26 then .len
  else if a.toNat = 0x27 then .cmd
  else if a.toNat = 0x28 then .status
  else if a.toNat = 0x29 then .rcon
  else if a.toNat = 0x2A then .round
  else if a.toNat = 0x2B then .reserved
  else if h : a.toNat < 0x30 then .mic ⟨a.toNat - 0x2C, by omega⟩
  else if h : a.toNat < 0x40 then .block ⟨a.toNat - 0x30, by omega⟩
  else .buf ⟨a.toNat - 0x40, by have := a.isLt; omega⟩

/-- The current value of a location (R56): 0x00 for the reserved address, the last accepted command byte for
CMD, ROUND in bits 3..0 with zeros above. -/
def readLoc (s : State) : Loc → Byte
  | .keyApp i => s.keyApp[i]
  | .keyNwk i => s.keyNwk[i]
  | .devAddr i => s.devAddr[i]
  | .fcntLo => s.fcntLo
  | .fcntHi => s.fcntHi
  | .len => s.len
  | .cmd => s.cmd
  | .status => statusByte s
  | .rcon => s.rcon
  | .round => s.round.setWidth 8
  | .reserved => 0x00
  | .mic i => s.mic[i]
  | .block i => s.block[i]
  | .buf i => s.buf[i]

/-- Storing a byte at a data location (R57 case 4); a write to a read-only or reserved location is ignored
(R57 case 5, R58). CMD and STATUS are not written this way: `hostWrite` handles them first. -/
def storeLoc (s : State) (v : Byte) : Loc → State
  | .keyApp i => { s with keyApp := s.keyApp.set i v }
  | .keyNwk i => { s with keyNwk := s.keyNwk.set i v }
  | .devAddr i => { s with devAddr := s.devAddr.set i v }
  | .fcntLo => { s with fcntLo := v }
  | .fcntHi => { s with fcntHi := v }
  | .len => { s with len := v }
  | .cmd => s
  | .status => s
  | .rcon => s
  | .round => s
  | .reserved => s
  | .mic _ => s
  | .block i => { s with block := s.block.set i v }
  | .buf i => { s with buf := s.buf.set i v }

/-- `KEY[k]`: `KEY_APP` for KSEL = 0, `KEY_NWK` for KSEL = 1 (R21, R22, R45). -/
def keyReg (k : KeySel) (s : State) : Block :=
  match k with
  | .app => s.keyApp
  | .nwk => s.keyNwk

/-- `BUF[k]`. The sequencer never indexes outside `BUF[0..LEN-1]` with `LEN <= 64` (R70), so the value past the
buffer plays no part in any accepted command (notes/assumptions/6.md). -/
def bufByte (s : State) (k : Nat) : Byte := if h : k < 64 then s.buf[k] else 0x00

/-- `ceil(LEN/16)` (R142, R154). -/
def blockCount (s : State) : Nat := (s.len.toNat + 15) / 16

/-- The 128 bytes of the register space, what a host can see of an idle core (R12, R50). -/
def registerSpace (s : State) : Vector Byte 128 := Vector.ofFn fun i => readLoc s (locOf (BitVec.ofFin i))

/-- Every register byte, those without an address among them. Only the free values depend on it. -/
def image (s : State) : List Byte :=
  (registerSpace s).toList ++ s.state.toList.flatMap (·.toList) ++ s.rk.toList ++ s.k1.toList ++ s.k2.toList
    ++ s.chain.toList

end Sys2Proof.Machine
end

