-- ==== Sys2Proof/Machine/Ops.lean ====
section
/-! DEFINITION. The named operations over the registers: raising an error and the acknowledge, the life cycle of a
command, the host's read and write, a reset, and the moves of the datapath. -/

namespace Sys2Proof.Machine

/-! ## Errors and the acknowledge -/

/-- `raise Error(code)` (R173), the core's only way of taking an exception: `if STATUS.ERR = 0 then STATUS.ERR <- code`,
and nothing else changes. -/
def raiseError (e : ErrCode) (s : State) : State := { s with err := errAfterRaise e s.err }

/-- A write of `v` to STATUS (R59), the return from an error (R178): it clears DONE and ERR as `v` says. -/
def acknowledge (v : Byte) (s : State) : State :=
  { s with done := doneAfterAck v s.done, err := errAfterAck v s.err }

/-! ## The life cycle of a command -/

/-- Acceptance (R61): `CMD <- v; STATUS.BUSY <- 1; STATUS.DONE <- 0`, and nothing else. -/
def accept (v : Byte) (s : State) : State := { s with cmd := v, busy := true, done := false }

/-- The end of the completion step (R62): `STATUS.BUSY <- 0; STATUS.DONE <- 1`. -/
def complete (s : State) : State := { s with busy := false, done := true }

/-- Whether the value of LEN lets a command be accepted (R60 case 3, R172): only PAYLOAD and MIC look at it. -/
def lenAccepted (i : Instr) (len : Byte) : Bool :=
  match i with
  | .rd _ _ => true
  | .wr _ _ => true
  | .ldstate => true
  | .ststate => true
  | .ldkey _ => true
  | .strk => true
  | .subbytes => true
  | .shiftrows => true
  | .mixcolumns => true
  | .keystep => true
  | .addroundkey => true
  | .aesenc _ => true
  | .dbl => true
  | .payload => len.toNat ≤ Config.lenMaxPayload
  | .mic => Config.lenMinMic ≤ len.toNat ∧ len.toNat ≤ Config.lenMaxMic

/-- A write of `v` to CMD with the core idle (R60, R179): dropped while ERR is not 0; then the byte is checked,
then LEN; then the command is accepted. -/
def writeCommand (v : Byte) (s : State) : State :=
  if s.err ≠ .none then s
  else
    match decodeCommand v with
    | .error _ => raiseError .illegalCmd s
    | .ok i => if lenAccepted i s.len then accept v s else raiseError .lenRange s

/-! ## The host's accesses -/

/-- The byte a host read at `a` returns (R56, R63): STATUS at any time; another address while busy, a free value;
else the location's value. -/
def hostRead (a : Addr) (s : State) : Byte :=
  if a = statusAddr then statusByte s
  else if s.busy then Config.busyRead s.draws a (image s)
  else readLoc s (locOf a)

/-- A host write of `v` at `a`, the first case of R57 that applies. -/
def hostWrite (a : Addr) (v : Byte) (s : State) : State :=
  if a = statusAddr then acknowledge v s
  else if s.busy then raiseError .busyAccess s
  else if a = cmdAddr then writeCommand v s
  else storeLoc s v (locOf a)

/-- The end of a transaction: the byte returned in its slot (R81), and the model's draw counter moves on. -/
def endTransaction (b : Byte) (s : State) : State := { s with returned := b, draws := s.draws + 1 }

/-- The end of a read: the value it returned is observed (R12). -/
def observe (b : Byte) (s : State) : State := { s with reads := b :: s.reads }

/-- The external reset (R190, R191): every register as `State.afterReset` says, a running command discarded. What
happens next and what the host has read is not the core's and stays (DESIGN CHOICE, notes/assumptions/9.md). -/
def resetEvent (s : State) : State :=
  { State.afterReset s.draws (image s) with
    program := s.program, schedule := s.schedule, reads := s.reads, returned := s.returned }

/-! ## The datapath -/

/-- `STATE <- m` (R36). -/
def setState (m : AesState) (s : State) : State := { s with state := m }

/-- `BLOCK <- b` (R26). -/
def setBlock (b : Block) (s : State) : State := { s with block := b }

/-- `RK`, `RCON` and `ROUND` together (R34, R35, R37). -/
def setKey (k : Block) (rcon : Byte) (round : BitVec 4) (s : State) : State :=
  { s with rk := k, rcon := rcon, round := round }

/-- `K1 <- b` (R38). -/
def setK1 (b : Block) (s : State) : State := { s with k1 := b }

/-- `K2 <- b` (R38). -/
def setK2 (b : Block) (s : State) : State := { s with k2 := b }

/-- `CHAIN <- b` (R39). -/
def setChain (b : Block) (s : State) : State := { s with chain := b }

/-- `MIC <- q` (R27). -/
def setMic (q : Quad) (s : State) : State := { s with mic := q }

/-- `BUF <- b` (R28). -/
def setBuf (b : Buffer) (s : State) : State := { s with buf := b }

/-- A 16-byte block of the shape of A and B (R53, R141, R152): the first byte, five zeros, the device address
reversed, the frame counter low byte first, three zeros, the last byte. -/
def sessionBlock (first last : Byte) (s : State) : Block :=
  #v[first, 0x00, 0x00, 0x00, 0x00, 0x00, s.devAddr[3], s.devAddr[2], s.devAddr[1], s.devAddr[0], s.fcntLo, s.fcntHi,
     0x00, 0x00, 0x00, last]

end Sys2Proof.Machine
end

