-- ==== Sys2Proof/Machine/Agents.lean ====
section
/-! DEFINITION. The two agents (00_scope.md R11): which of them acts next, and with what. The state's schedule says in
which order the host, the sequencer and the external reset act; every interleaving is that of some schedule (R65). When
the schedule is used up a running command completes, and with no command running the host goes on: the sequencer's step
does not stay enabled forever without being taken (R62, R196, R197; notes/assumptions/4.md). -/

namespace Sys2Proof.Machine

/-- What the machine does next. -/
inductive Work where
  /-- An instruction is run in the state given. -/
  | run (i : Instr) (s : State)
  /-- The state given is the next state: a reset, or nothing to do. -/
  | pass (s : State)
  /-- BUSY = 1 with no legal command in CMD. -/
  | stuck
deriving DecidableEq, Repr

/-- The sequencer's step (R62): enabled if and only if BUSY = 1, it runs the command in CMD. -/
def sequencerWork (s : State) : Work :=
  if s.busy then
    match decodeCommand s.cmd with
    | .ok i => .run i s
    | .error _ => .stuck
  else .pass s

/-- The word of `WR STATUS, v` (R81). -/
def statusWriteWord (v : Byte) : BusWord := 1#1 ++ statusAddr ++ v

/-- What is left of a WAIT after a read that returned `v`: if bit 0 (BUSY) of `v` is 1, the WAIT again (R90). -/
def afterWaitRead (v : Byte) (rest : List HostOp) : List HostOp := if v.getLsbD 0 then .wait :: rest else rest

/-- What is left of an ACK after a read that returned `v`: the write of that byte to STATUS (R90). -/
def afterAckRead (v : Byte) (rest : List HostOp) : List HostOp := .transaction (statusWriteWord v) :: rest

/-- The transaction the host issues next, and what is left of its program after it, where `v` is the byte a read of
STATUS returns; `none` at the end of the program. -/
def hostIssue (v : Byte) : List HostOp → Option (Instr × List HostOp)
  | [] => none
  | .transaction w :: rest => some (decodeTransaction w, rest)
  | .wait :: rest => some (.rd statusAddr 0x00, afterWaitRead v rest)
  | .ack :: rest => some (.rd statusAddr 0x00, afterAckRead v rest)

/-- The host's turn. -/
def hostWork (s : State) : Work :=
  match hostIssue (hostRead statusAddr s) s.program with
  | some (i, rest) => .run i { s with program := rest }
  | none => .pass s

/-- The next thing that happens. An idle core with nothing left to do stays as it is (R191, R197). -/
def nextWork (s : State) : Work :=
  match s.schedule with
  | [] => if s.busy then sequencerWork s else hostWork s
  | .host :: rest => hostWork { s with schedule := rest }
  | .sequencer :: rest => sequencerWork { s with schedule := rest }
  | .reset :: rest => .pass (resetEvent { s with schedule := rest })

/-- The host has the turn that leaves schedule `sch`: it is the next in the schedule, or the schedule is used up and no
command runs. -/
def HostTurn (s : State) (sch : List Turn) : Prop :=
  s.schedule = .host :: sch ∨ s.schedule = [] ∧ sch = [] ∧ s.busy = false

/-- The sequencer has the turn that leaves schedule `sch`, in the same way. -/
def SequencerTurn (s : State) (sch : List Turn) : Prop :=
  s.schedule = .sequencer :: sch ∨ s.schedule = [] ∧ sch = [] ∧ s.busy = true

/-- LEN where the acceptance of a command needs it (R60 case 3): the value there if the command accepts it, else 1. -/
def lenForCommand (v : Byte) (len : Byte) : Byte :=
  match decodeCommand v with
  | .ok i => if lenAccepted i len then len else 0x01
  | .error _ => len

/-- The state right after command byte `v` was accepted, with the sequencer to act next. -/
def withCommand (v : Byte) (s : State) : State :=
  { s with
    cmd := v
    busy := true
    done := false
    len := lenForCommand v s.len
    schedule := Turn.sequencer :: s.schedule }

/-- The state in which transaction `w` is next, and the host to act. -/
def withTransaction (w : BusWord) (s : State) : State :=
  { s with program := HostOp.transaction w :: s.program, schedule := Turn.host :: s.schedule }

/-- How many turns come before the sequencer's next: the busy time of a running command (R196). -/
def turnsLeft : List Turn → Nat
  | [] => 0
  | .sequencer :: _ => 0
  | .host :: rest => turnsLeft rest + 1
  | .reset :: rest => turnsLeft rest + 1

end Sys2Proof.Machine
end

