-- ==== Sys2Proof/Machine/Bus.lean ====
section
/-! DEFINITION. The two host transactions (20_memory.md R56, R57; 30_encoding.md R81). -/

namespace Sys2Proof.Machine

/-- RD (R56): the byte read is returned and observed; no register of the core changes. The data field is ignored. -/
def execRd (a : Addr) (_d : Byte) (s : State) : Host.Outcome State Fault Refusal :=
  .next (endTransaction (hostRead a s) (observe (hostRead a s) s))

/-- WR (R57): the write is handled; the byte returned in its slot is a free value (R81, U12;
notes/assumptions/3.md). -/
def execWr (a : Addr) (v : Byte) (s : State) : Host.Outcome State Fault Refusal :=
  .next (endTransaction (Config.writeReturn s.draws a v (image s)) (hostWrite a v s))

end Sys2Proof.Machine
end

