-- ==== Sys2Proof/Machine/RoundOps.lean ====
section
/-! DEFINITION. The AES round operations (40_aes_round_ops.md): each micro-operation as a change of the registers, shared
with the macro-commands (R130), and as a command, that is with the end of the completion step (R17, R62). -/

namespace Sys2Proof.Machine

/-! ## The micro-operations -/

/-- LDSTATE: `STATE <- BLOCK` (R102). -/
def ldState (s : State) : State := setState (blockToState s.block) s

/-- STSTATE: `BLOCK <- STATE` (R103). -/
def stState (s : State) : State := setBlock (stateToBlock s.state) s

/-- SUBBYTES (R105). -/
def subBytesOp (s : State) : State := setState (subBytes s.state) s

/-- SHIFTROWS (R106). -/
def shiftRowsOp (s : State) : State := setState (shiftRows s.state) s

/-- MIXCOLUMNS (R107). -/
def mixColumnsOp (s : State) : State := setState (mixColumns s.state) s

/-- KEYSTEP: the next round key from the current one and RCON, then the next RCON and ROUND (R108). -/
def keyStep (s : State) : State := setKey (nextRoundKey s.rk s.rcon) (xtime s.rcon) (s.round + 1) s

/-- ADDROUNDKEY: `STATE <- STATE ^ RK` (R109). -/
def addRoundKeyOp (s : State) : State := setState (addRoundKey s.rk s.state) s

/-- LDKEY.k: `RK <- KEY[k]; RCON <- 0x01; ROUND <- 0` (R110). -/
def ldKey (k : KeySel) (s : State) : State := setKey (keyReg k s) 0x01 0 s

/-- STRK: `BLOCK <- RK` (R111). -/
def stRk (s : State) : State := setBlock s.rk s

/-! ## The commands -/

/-- LDSTATE (R102). -/
def execLdstate (s : State) : Host.Outcome State Fault Refusal := .next (complete (ldState s))

/-- STSTATE (R103). -/
def execStstate (s : State) : Host.Outcome State Fault Refusal := .next (complete (stState s))

/-- LDKEY (R110). -/
def execLdkey (k : KeySel) (s : State) : Host.Outcome State Fault Refusal := .next (complete (ldKey k s))

/-- STRK (R111). -/
def execStrk (s : State) : Host.Outcome State Fault Refusal := .next (complete (stRk s))

/-- SUBBYTES (R105). -/
def execSubbytes (s : State) : Host.Outcome State Fault Refusal := .next (complete (subBytesOp s))

/-- SHIFTROWS (R106). -/
def execShiftrows (s : State) : Host.Outcome State Fault Refusal := .next (complete (shiftRowsOp s))

/-- MIXCOLUMNS (R107). -/
def execMixcolumns (s : State) : Host.Outcome State Fault Refusal := .next (complete (mixColumnsOp s))

/-- KEYSTEP (R108). -/
def execKeystep (s : State) : Host.Outcome State Fault Refusal := .next (complete (keyStep s))

/-- ADDROUNDKEY (R109). -/
def execAddroundkey (s : State) : Host.Outcome State Fault Refusal := .next (complete (addRoundKeyOp s))

end Sys2Proof.Machine
end

