-- ==== Sys2Proof/Machine/Encrypt.lean ====
section
/-! DEFINITION. The AES-128 block encryption (41_aes_encrypt.md): the procedure AES_RUN and the command AESENC. -/

namespace Sys2Proof.Machine

/-- The step (*) of R130: the initial key addition, done if `INITIAL_ARK` is true. -/
def initialKeyAddition (ark : Bool) (s : State) : State := if ark then addRoundKeyOp s else s

/-- One full round (R130). -/
def fullRound (s : State) : State := addRoundKeyOp (keyStep (mixColumnsOp (shiftRowsOp (subBytesOp s))))

/-- `n` full rounds, one after the other. -/
def fullRounds : Nat → State → State
  | 0, s => s
  | n + 1, s => fullRounds n (fullRound s)

/-- The final round: no MIXCOLUMNS (R130). -/
def finalRound (s : State) : State := addRoundKeyOp (keyStep (shiftRowsOp (subBytesOp s)))

/-- Procedure `AES_RUN(k)` (R130): BLOCK is encrypted in place under `KEY[k]`. The argument `ark` is `INITIAL_ARK`. -/
def aesRun (ark : Bool) (k : KeySel) (s : State) : State :=
  stState (finalRound (fullRounds 9 (initialKeyAddition ark (ldKey k (ldState s)))))

/-- AESENC.k: `AES_RUN(KSEL)` and nothing else (R131). -/
def execAesenc (k : KeySel) (s : State) : Host.Outcome State Fault Refusal :=
  .next (complete (aesRun Config.initialArk k s))

end Sys2Proof.Machine
end

