-- ==== Sys2Proof/Machine/Mic.lean ====
section
/-! DEFINITION. The LoRaWAN MIC generator (43_mic_generator.md): the commands DBL and MIC. -/

namespace Sys2Proof.Machine

/-- `BLOCK <- dbl(BLOCK)` (R150, R153). -/
def doubleBlock (s : State) : State := setBlock (dblBlock s.block) s

/-- DBL (R153). -/
def execDbl (s : State) : Host.Outcome State Fault Refusal := .next (complete (doubleBlock s))

/-- `K1 <- BLOCK` (R154). -/
def saveK1 (s : State) : State := setK1 s.block s

/-- `K2 <- BLOCK` (R154). -/
def saveK2 (s : State) : State := setK2 s.block s

/-- `CHAIN <- BLOCK` (R154). -/
def saveChain (s : State) : State := setChain s.block s

/-- The subkeys (R151, R154): the zero block encrypted under the network key, doubled once for K1 and again for K2. -/
def micSubkeys (ark : Bool) (s : State) : State :=
  saveK2 (doubleBlock (saveK1 (doubleBlock (aesRun ark .nwk (setBlock zeroBlock s)))))

/-- Block B(Len) for `Len = LEN` (R152). -/
def headerBlock (s : State) : Block := sessionBlock 0x49 s.len s

/-- The chain is seeded with the encrypted header block (R154). -/
def micHeader (ark : Bool) (s : State) : State := saveChain (aesRun ark .nwk (setBlock (headerBlock s) s))

/-- Message block `b`: the 16 bytes `BUF[16*(b-1) .. 16*(b-1)+15]` (R154). -/
def messageBlock (b : Nat) (s : State) : Block := Vector.ofFn fun j => bufByte s (16 * (b - 1) + j.val)

/-- The loop body for a message block that is not the last (R154). -/
def micBlock (ark : Bool) (b : Nat) (s : State) : State :=
  saveChain (aesRun ark .nwk (setBlock (xorBlock (messageBlock b s) s.chain) s))

/-- The loop over message blocks 1 to `n`, in increasing order (R154, R157). -/
def micBlocks (ark : Bool) : Nat → State → State
  | 0, s => s
  | n + 1, s => micBlock ark (n + 1) (micBlocks ark n s)

/-- The last message block filled to 16 bytes (R154): `r` message bytes, one byte 0x80, then zeros. -/
def paddedBlock (n r : Nat) (s : State) : Block :=
  Vector.ofFn fun j =>
    if j.val < r then bufByte s (16 * (n - 1) + j.val) else if j.val = r then 0x80 else 0x00

/-- What is encrypted last (R154): a full last block XOR K1, or the padded one XOR K2, XOR the chain. -/
def lastInput (s : State) : Block :=
  let n := blockCount s
  let r := s.len.toNat % 16
  if r = 0 then xorBlock (xorBlock (messageBlock n s) s.k1) s.chain
  else xorBlock (xorBlock (paddedBlock n r s) s.k2) s.chain

/-- `for j in 0..3: MIC[j] <- BLOCK[j]` (R53, R154). -/
def saveMic (s : State) : State := setMic #v[s.block[0], s.block[1], s.block[2], s.block[3]] s

/-- The last block and the truncation (R154). -/
def micFinal (ark : Bool) (s : State) : State := saveMic (aesRun ark .nwk (setBlock (lastInput s) s))

/-- The whole effect of MIC (R154). -/
def micRun (ark : Bool) (s : State) : State :=
  micFinal ark (micBlocks ark (blockCount s - 1) (micHeader ark (micSubkeys ark s)))

/-- MIC (R154). -/
def execMic (s : State) : Host.Outcome State Fault Refusal := .next (complete (micRun Config.initialArk s))

end Sys2Proof.Machine
end

