-- ==== Sys2Proof/Machine/Payload.lean ====
section
/-! DEFINITION. The LoRaWAN payload cipher (42_payload_cipher.md): the command PAYLOAD. -/

namespace Sys2Proof.Machine

/-- Block A(i) (R141). -/
def counterBlock (i : Nat) (s : State) : Block := sessionBlock 0x01 (BitVec.ofNat 8 i) s

/-- The inner loop of PAYLOAD for block `i` (R142): the first `min(16, N - 16*(i-1))` bytes of BLOCK are XORed into
BUF from `16*(i-1)` on, that is into each index `k < N` whose segment `k/16` is number `i - 1`. -/
def xorSegment (i : Nat) (s : State) : State :=
  setBuf (Vector.ofFn fun k =>
    if k.val / 16 + 1 = i ∧ k.val < s.len.toNat then s.buf[k] ^^^ (s.block[k.val % 16]'(Nat.mod_lt _ (by decide)))
    else s.buf[k]) s

/-- The body of PAYLOAD's loop for block `i` (R142). -/
def payloadBlock (ark : Bool) (i : Nat) (s : State) : State :=
  xorSegment i (aesRun ark .app (setBlock (counterBlock i s) s))

/-- PAYLOAD's loop, blocks 1 to `n` in increasing order (R142, R144). -/
def payloadBlocks (ark : Bool) : Nat → State → State
  | 0, s => s
  | n + 1, s => payloadBlock ark (n + 1) (payloadBlocks ark n s)

/-- The whole effect of PAYLOAD (R142). -/
def payloadRun (ark : Bool) (s : State) : State := payloadBlocks ark (blockCount s) s

/-- PAYLOAD (R142). -/
def execPayload (s : State) : Host.Outcome State Fault Refusal :=
  .next (complete (payloadRun Config.initialArk s))

end Sys2Proof.Machine
end

