-- ==== Sys2Proof/Machine/Dispatch.lean ====
section
/-! DEFINITION. One arm per instruction. -/

namespace Sys2Proof.Machine

def exec (i : Instr) (s : State) : Host.Outcome State Fault Refusal :=
  match i with
  | .rd a d => Sys2Proof.Machine.execRd a d s
  | .wr a v => Sys2Proof.Machine.execWr a v s
  | .ldstate => Sys2Proof.Machine.execLdstate s
  | .ststate => Sys2Proof.Machine.execStstate s
  | .ldkey k => Sys2Proof.Machine.execLdkey k s
  | .strk => Sys2Proof.Machine.execStrk s
  | .subbytes => Sys2Proof.Machine.execSubbytes s
  | .shiftrows => Sys2Proof.Machine.execShiftrows s
  | .mixcolumns => Sys2Proof.Machine.execMixcolumns s
  | .keystep => Sys2Proof.Machine.execKeystep s
  | .addroundkey => Sys2Proof.Machine.execAddroundkey s
  | .aesenc k => Sys2Proof.Machine.execAesenc k s
  | .dbl => Sys2Proof.Machine.execDbl s
  | .payload => Sys2Proof.Machine.execPayload s
  | .mic => Sys2Proof.Machine.execMic s

end Sys2Proof.Machine
end

