-- ==== Sys2Proof/Machine/Step.lean ====
section
/-! DEFINITION. One step of the machine. -/

namespace Sys2Proof.Machine

/-- The outcome of what there is to do. -/
def runWork : Work → Host.Outcome State Fault Refusal
  | .run i s => exec i s
  | .pass s => .next s
  | .stuck => .fault .busyWithoutCommand

/-- One step: a host transaction, the completion of the running command, a reset, or nothing (R11, R65, R197). -/
def step (s : State) : Host.Outcome State Fault Refusal := runWork (nextWork s)

/-- `s` with the instruction of the word `w` placed so that the very next step runs it: an 8-bit command byte as
the command just accepted and the sequencer to act, a 16-bit transaction as the host's next, and
the host to act (notes/assumptions/5.md). -/
def State.withFetchWord (s : State) (nbits w : Nat) : State :=
  if nbits ≤ 8 then withCommand (BitVec.ofNat 8 w) s else withTransaction (BitVec.ofNat 16 w) s

end Sys2Proof.Machine
end

