-- ==== Sys2Proof/Machine/Pseudo.lean ====
section
/-! DEFINITION. Programs, the pseudo-instructions of 30_encoding.md R90, and running a sequence of instructions. WAIT and
ACK depend on a byte that is read: they are operations of the host, which step carries out read by read (Agents.lean). The
others are lists of transactions. -/

namespace Sys2Proof.Machine

/-- A sequence of transactions as a program of the host (R12); a command alone is no transaction (R80). -/
def hostProgram (p : List Instr) : List HostOp := (p.filterMap encodeTransaction).map .transaction

/-- `CMD <mnemonic>`: a write of the command's legal byte to CMD; nothing for a transaction. -/
def pseudoCmd (i : Instr) : List HostOp :=
  match i.format with
  | .cmd => hostProgram ((encode i).map (.wr cmdAddr ·))
  | .bus => []

/-- `WAIT`: reads of STATUS, at least one, up to the first that returns BUSY = 0. -/
def pseudoWait : List HostOp := [.wait]

/-- `RUN <mnemonic>`: `CMD <mnemonic>` then `WAIT`. -/
def pseudoRun (i : Instr) : List HostOp := pseudoCmd i ++ pseudoWait

/-- `ACK`: a read of STATUS, and a write to STATUS of the byte it returned. -/
def pseudoAck : List HostOp := [.ack]

/-- `WRN <reg>, <bytes>` from the register's base address. An index past the register's end goes on into the locations
after it, and past 0x7F around to 0x00: DESIGN CHOICE, notes/assumptions/16.md. -/
def pseudoWrn (base : Addr) (bytes : List Byte) : List HostOp :=
  hostProgram (bytes.mapIdx fun j b => .wr (base + BitVec.ofNat 7 j) b)

/-- `RDN <reg>, n` from the register's base address, with an index past the register's end as in `pseudoWrn`: DESIGN
CHOICE, notes/assumptions/16.md. -/
def pseudoRdn (base : Addr) (n : Nat) : List HostOp :=
  hostProgram ((List.range n).map fun j => .rd (base + BitVec.ofNat 7 j) 0x00)

/-- `SETFCNT n`. -/
def pseudoSetFcnt (n : Nat) : List HostOp :=
  hostProgram [.wr 0x24#7 (BitVec.ofNat 8 n), .wr 0x25#7 (BitVec.ofNat 8 (n / 256))]

/-- A sequence of instructions, one after the other, up to the first stop. -/
def execAll : List Instr → State → Host.Outcome State Fault Refusal
  | [], s => .next s
  | i :: rest, s =>
    match exec i s with
    | .next t => execAll rest t
    | .fault e => .fault e
    | .refused e => .refused e

end Sys2Proof.Machine
end

