-- ==== Sys2Proof/Safety.lean ====
section
/-! DEFINITION. What a run keeps and what a host observes. -/

namespace Sys2Proof

open Sys2Proof.Machine

/-- CMD holds 0x00 or a legal command byte (R29, R43, R60). -/
abbrev CmdHeld (s : State) : Prop := s.cmd = 0x00 ∨ (decodeCommand s.cmd).isOk = true

/-- A running command is legal, LEN lets it run, and DONE is 0 (R60, R61, R63). -/
abbrev RunningAccepted (s : State) : Prop :=
  s.busy = true →
    (match decodeCommand s.cmd with | .ok i => lenAccepted i s.len | .error _ => false) = true ∧ s.done = false

/-- The invariant every step keeps: CMD and the life cycle of R60 to R62 are in order, DONE comes from a command
(R32). -/
structure CoreInv (s : State) : Prop where
  cmdHeld : CmdHeld s
  running : RunningAccepted s
  doneMeansCommand : s.done = true → (decodeCommand s.cmd).isOk = true

/-- A step that does not stop (R197). -/
def Safe (s : State) : Prop := ∃ t, step s = .next t

/-- What a host observes of a run (R12): the values its reads returned, first read first, and the register space. -/
def observation (s : State) : List Byte × Vector Byte 128 := (s.reads.reverse, registerSpace s)

end Sys2Proof
end

