-- ==== Sys2Proof/Certificates/Slice0/Obligations.lean ====
section
/-! DEFINITION. The statements. First what they are stated with: the standard algorithms as the standards write them,
independent of the model's own procedures (the key schedule as one list of words, the cipher on flat blocks, CMAC on a
list of bytes), the register map of 20_memory.md R50, and the write sets of 10_state.md R45. -/

namespace Sys2Proof.Claims

open Sys2Proof Sys2Proof.Machine

/-! ## Encodings -/

/-- `b` is the one command byte that means `i`. -/
def OnlyByte (i : Instr) (b : Byte) : Prop := ∀ v : Byte, decodeCommand v = .ok i ↔ v = b

/-- `v` is illegal as a command byte. -/
def IllegalByte (v : Byte) : Prop := (decodeCommand v).isOk = false

/-- The fifteen legal command bytes, as 30_encoding.md R86 lists them. -/
def legalBytes : List Byte :=
  [0x01, 0x02, 0x03, 0x04, 0x05, 0x06, 0x07, 0x08, 0x09, 0x0A, 0x0B, 0x0C, 0x13, 0x1A, 0x1D]

/-! ## The field GF(2^8) modulo 0x11B (40_aes_round_ops.md R101) -/

/-- The polynomial product of two numbers below 256, before reduction: the shifted copies of `b` for the bits of `a`. -/
def polyMul (a b : Nat) : Nat :=
  (List.range 8).foldl (fun acc i => if a.testBit i then acc ^^^ (b <<< i) else acc) 0

/-- Reduction modulo 0x11B: the bits 14 down to 8 are removed in turn. -/
def polyReduce (n : Nat) : Nat :=
  (List.range 7).foldl (fun acc i => if acc.testBit (14 - i) then acc ^^^ (0x11B <<< (6 - i)) else acc) n

/-- The product in GF(2^8). -/
def gfMul (a b : Byte) : Byte := BitVec.ofNat 8 (polyReduce (polyMul a.toNat b.toNat))

/-- The affine map of the substitution box (R104). -/
def sboxAffine (x : Byte) : Byte :=
  x ^^^ x.rotateLeft 1 ^^^ x.rotateLeft 2 ^^^ x.rotateLeft 3 ^^^ x.rotateLeft 4 ^^^ 0x63

/-! ## The AES-128 cipher with a key schedule computed beforehand -/

/-- The round constant number `j + 1`: `2^j` in the field. -/
def roundConstant : Nat → Byte
  | 0 => 0x01
  | j + 1 => gfMul 0x02 (roundConstant j)

/-- The next word of the schedule from the words before it: `w[i] = w[i-4] ^ temp`, where `temp` is `w[i-1]`, rotated,
substituted and with the round constant added if `i` is a multiple of 4. -/
def nextWord (ws : List Quad) : Quad :=
  let i := ws.length
  let prev := ws.getD (i - 1) #v[0x00, 0x00, 0x00, 0x00]
  let temp : Quad :=
    if i % 4 = 0 then #v[sbox prev[1] ^^^ roundConstant (i / 4 - 1), sbox prev[2], sbox prev[3], sbox prev[0]] else prev
  xorQuad (ws.getD (i - 4) #v[0x00, 0x00, 0x00, 0x00]) temp

/-- The first `4 + n` words of the schedule of a key. -/
def scheduleWords (key : Block) : Nat → List Quad
  | 0 => [#v[key[0], key[1], key[2], key[3]], #v[key[4], key[5], key[6], key[7]],
          #v[key[8], key[9], key[10], key[11]], #v[key[12], key[13], key[14], key[15]]]
  | n + 1 => scheduleWords key n ++ [nextWord (scheduleWords key n)]

/-- Round key `n`: the words `w[4n]` to `w[4n+3]` one after the other. -/
def roundKey (key : Block) (n : Nat) : Block :=
  Vector.ofFn fun j =>
    ((scheduleWords key (4 * n)).getD (4 * n + j.val / 4) #v[0x00, 0x00, 0x00, 0x00])[j.val % 4]'(Nat.mod_lt _ (by decide))

/-- SubBytes on the flat block. -/
def fipsSubBytes (b : Block) : Block := b.map sbox

/-- ShiftRows on the flat block, by the list of old indices of 40_aes_round_ops.md R106. -/
def fipsShiftRows (b : Block) : Block :=
  #v[b[0], b[5], b[10], b[15], b[4], b[9], b[14], b[3], b[8], b[13], b[2], b[7], b[12], b[1], b[6], b[11]]

/-- MixColumns on the flat block: byte `j` of a column is `2*a[j] + 3*a[j+1] + a[j+2] + a[j+3]`, indices modulo 4. -/
def fipsMixColumns (b : Block) : Block :=
  Vector.ofFn fun k =>
    let a (d : Nat) : Byte := b.toList.getD (4 * (k.val / 4) + (k.val + d) % 4) 0x00
    gfMul 0x02 (a 0) ^^^ gfMul 0x03 (a 1) ^^^ a 2 ^^^ a 3

/-- `n` rounds of (SubBytes, ShiftRows, MixColumns, AddRoundKey), with round keys 1 to `n`. -/
def fipsRounds (key : Block) : Nat → Block → Block
  | 0, b => b
  | n + 1, b => xorBlock (fipsMixColumns (fipsShiftRows (fipsSubBytes (fipsRounds key n b)))) (roundKey key (n + 1))

/-- AES-128 (41_aes_encrypt.md R134): the initial addition of round key 0, nine full rounds, a final round without
MixColumns. -/
def fipsEncrypt (key b : Block) : Block :=
  xorBlock (fipsShiftRows (fipsSubBytes (fipsRounds key 9 (xorBlock b (roundKey key 0))))) (roundKey key 10)

/-- The 4 by 4 arrangement of a block (40_aes_round_ops.md R100). -/
def inStateOrder (b : Block) : AesState :=
  #v[#v[b[0], b[4], b[8], b[12]], #v[b[1], b[5], b[9], b[13]],
     #v[b[2], b[6], b[10], b[14]], #v[b[3], b[7], b[11], b[15]]]

/-- The micro-operations of AES_RUN, in order, with the initial key addition (41_aes_encrypt.md R130). -/
def roundSequence (k : KeySel) : List Instr :=
  [.ldstate, .ldkey k, .addroundkey]
    ++ (List.replicate 9 [Instr.subbytes, .shiftrows, .mixcolumns, .keystep, .addroundkey]).flatten
    ++ [.subbytes, .shiftrows, .keystep, .addroundkey, .ststate]

/-! ## The payload cipher and the MIC -/

/-- Block A(i), by index (42_payload_cipher.md R141). -/
def blockA (s : State) (i : Nat) : Block :=
  #v[0x01, 0x00, 0x00, 0x00, 0x00, 0x00, s.devAddr[3], s.devAddr[2], s.devAddr[1], s.devAddr[0], s.fcntLo, s.fcntHi,
     0x00, 0x00, 0x00, BitVec.ofNat 8 i]

/-- Keystream block S(i): block A(i) encrypted under the application key (42_payload_cipher.md R140). -/
def keystream (s : State) (i : Nat) : Block := fipsEncrypt s.keyApp (blockA s i)

/-- Block B(LEN), by index (43_mic_generator.md R152). -/
def blockB (s : State) : Block :=
  #v[0x49, 0x00, 0x00, 0x00, 0x00, 0x00, s.devAddr[3], s.devAddr[2], s.devAddr[1], s.devAddr[0], s.fcntLo, s.fcntHi,
     0x00, 0x00, 0x00, s.len]

/-- A block as a 128-bit number, element 0 the most significant byte (20_memory.md R54, 43_mic_generator.md R150). -/
def number (b : Block) : Nat := b.toList.foldl (fun acc x => acc * 256 + x.toNat) 0

/-- A 128-bit number as a block. -/
def ofNumber (n : Nat) : Block := Vector.ofFn fun j => BitVec.ofNat 8 (n / 256 ^ (15 - j.val))

/-- Doubling of a 128-bit number: shifted left by one, the top bit dropped and 0x87 XORed in if it was set. -/
def doubled (n : Nat) : Nat := if 2 ^ 127 ≤ n then (2 * n % 2 ^ 128) ^^^ 0x87 else 2 * n

/-- Up to 16 bytes as a block, missing bytes zero. -/
def blockOf (m : List Byte) : Block := Vector.ofFn fun j => m.getD j.val 0x00

/-- CMAC's last block: a full block XOR K1; a shorter one with one byte 0x80 appended, zero-filled, XOR K2. -/
def cmacLastBlock (k1 k2 : Block) (m : List Byte) : Block :=
  if m.length = 16 then xorBlock (blockOf m) k1 else xorBlock (blockOf (m ++ [0x80])) k2

/-- CMAC's chain over a message of at most `16 * fuel` bytes: the value that enters the last block, and the tag. -/
def cmacChain (e : Block → Block) (k1 k2 : Block) : Nat → Block → List Byte → Block × Block
  | 0, x, _ => (x, x)
  | fuel + 1, x, m =>
    if m.length ≤ 16 then (x, e (xorBlock (cmacLastBlock k1 k2 m) x))
    else cmacChain e k1 k2 fuel (e (xorBlock (blockOf (m.take 16)) x)) (m.drop 16)

/-- The first subkey of CMAC: the doubling of the encrypted zero block. -/
def cmacK1 (e : Block → Block) : Block := ofNumber (doubled (number (e (ofNumber 0))))

/-- The second subkey of CMAC: the doubling of the first. -/
def cmacK2 (e : Block → Block) : Block := ofNumber (doubled (number (cmacK1 e)))

/-- CMAC of a message of at most 80 bytes, with the chain value that enters its last block. -/
def cmac (e : Block → Block) (m : List Byte) : Block × Block := cmacChain e (cmacK1 e) (cmacK2 e) 5 (ofNumber 0) m

/-- The message of a MIC: block B(LEN), then `BUF[0..LEN-1]` (43_mic_generator.md R155). -/
def micMessage (s : State) : List Byte := (blockB s).toList ++ s.buf.toList.take s.len.toNat

/-! ## The register map and the write sets -/

/-- The value at address `a` of an idle core, row by row of the table of 20_memory.md R50. -/
def mapped (s : State) (a : Nat) : Byte :=
  if a ≤ 0x0F then s.keyApp.toList.getD a 0x00
  else if a ≤ 0x1F then s.keyNwk.toList.getD (a - 0x10) 0x00
  else if a ≤ 0x23 then s.devAddr.toList.getD (a - 0x20) 0x00
  else if a = 0x24 then s.fcntLo
  else if a = 0x25 then s.fcntHi
  else if a = 0x26 then s.len
  else if a = 0x27 then s.cmd
  else if a = 0x28 then BitVec.ofNat 8 (4 * s.err.code.toNat + 2 * s.done.toNat + s.busy.toNat)
  else if a = 0x29 then s.rcon
  else if a = 0x2A then BitVec.ofNat 8 s.round.toNat
  else if a = 0x2B then 0x00
  else if a ≤ 0x2F then s.mic.toList.getD (a - 0x2C) 0x00
  else if a ≤ 0x3F then s.block.toList.getD (a - 0x30) 0x00
  else s.buf.toList.getD (a - 0x40) 0x00

/-- The addresses of the read-write data locations (20_memory.md R57 case 4). -/
def isData (a : Addr) : Bool := a.toNat ≤ 0x26 || 0x30 ≤ a.toNat

/-- The registers without an address, and what is not the core's but for the byte returned and the draw counter. -/
def SameHidden (s t : State) : Prop :=
  t.state = s.state ∧ t.rk = s.rk ∧ t.k1 = s.k1 ∧ t.k2 = s.k2 ∧ t.chain = s.chain ∧ t.program = s.program
    ∧ t.schedule = s.schedule ∧ t.reads = s.reads

/-- `t` differs from `s` at most in what command `i` may write (10_state.md R45), STATUS.BUSY and STATUS.DONE apart;
`False` for a transaction. -/
def WriteSet (s t : State) : Instr → Prop
  | .rd _ _ => False
  | .wr _ _ => False
  | .ldstate => t = { s with state := t.state, busy := t.busy, done := t.done }
  | .ststate => t = { s with block := t.block, busy := t.busy, done := t.done }
  | .ldkey _ => t = { s with rk := t.rk, rcon := t.rcon, round := t.round, busy := t.busy, done := t.done }
  | .strk => t = { s with block := t.block, busy := t.busy, done := t.done }
  | .subbytes => t = { s with state := t.state, busy := t.busy, done := t.done }
  | .shiftrows => t = { s with state := t.state, busy := t.busy, done := t.done }
  | .mixcolumns => t = { s with state := t.state, busy := t.busy, done := t.done }
  | .keystep => t = { s with rk := t.rk, rcon := t.rcon, round := t.round, busy := t.busy, done := t.done }
  | .addroundkey => t = { s with state := t.state, busy := t.busy, done := t.done }
  | .aesenc _ =>
    t = { s with
      block := t.block, state := t.state, rk := t.rk, rcon := t.rcon, round := t.round, busy := t.busy, done := t.done }
  | .dbl => t = { s with block := t.block, busy := t.busy, done := t.done }
  | .payload =>
    t = { s with
      buf := t.buf, block := t.block, state := t.state, rk := t.rk, rcon := t.rcon, round := t.round, busy := t.busy,
      done := t.done }
      ∧ (∀ k : Fin 64, s.len.toNat ≤ k.val → t.buf[k] = s.buf[k])
      ∧ (s.len = 0x00 → t = { s with busy := t.busy, done := t.done })
  | .mic =>
    t = { s with
      mic := t.mic, block := t.block, state := t.state, rk := t.rk, rcon := t.rcon, round := t.round, k1 := t.k1,
      k2 := t.k2, chain := t.chain, busy := t.busy, done := t.done }

/-- Two states whose registers agree but for STATUS.ERR, and with nothing said of what is not the core's. -/
def SameRegistersButErr (s t : State) : Prop :=
  t = { s with
    err := t.err, program := t.program, schedule := t.schedule, reads := t.reads, returned := t.returned, draws := t.draws }

end Sys2Proof.Claims

open Sys2Proof Sys2Proof.Machine Sys2Proof.Claims

/-! ## Encodings and the step -/

/-- R86: a byte is a legal command byte exactly if it is one of the fifteen listed. -/
def Obligations.LegalCommandBytes : Prop :=
  ∀ v : Byte, (decodeCommand v).isOk = true ↔ v ∈ legalBytes

/-- R85, R81: for every instruction, with every operand, the decoder of its format reads the encoder's bytes back and
leaves the bytes after them. -/
def Obligations.DecodeOfEncode : Prop :=
  ∀ (i : Instr) (rest : List Byte), decode i.format (encode i ++ rest) = .ok (i, rest)

/-- R87, R85: what decodes is encoded by nothing else: every 16-bit value is a transaction whose encoding is that value,
and a byte that decodes to a command is that command's encoding with its key selector. -/
def Obligations.EncodeOfDecode : Prop :=
  (∀ w : BusWord, encodeTransaction (decodeTransaction w) = some w) ∧
  (∀ (v : Byte) (i : Instr), decodeCommand v = .ok i → i.format = .cmd ∧ encode i = [v])

/-- R81, R85, R89: words written out from the tables decode to their instructions. `WR LEN, 0x10` is `A610`, `RD STATUS`
is `2800`, `WR 0x7F, 0xFF` is `FFFF`; 0x13 is LDKEY.N, 0x1A is AESENC.N, 0x0C is PAYLOAD, 0x1D is MIC, 0x05 is SUBBYTES. -/
def Obligations.SpecWordsDecode : Prop :=
  decodeTransaction 0xA610 = .wr 0x26 0x10 ∧ decodeTransaction 0x2800 = .rd 0x28 0x00 ∧
  decodeTransaction 0xFFFF = .wr 0x7F 0xFF ∧ decodeCommand 0x13 = .ok (.ldkey .nwk) ∧
  decodeCommand 0x1A = .ok (.aesenc .nwk) ∧ decodeCommand 0x0C = .ok .payload ∧ decodeCommand 0x1D = .ok .mic ∧
  decodeCommand 0x05 = .ok .subbytes

/-- R11, R65, R80: when the host has its turn and a transaction is next in its program, the step runs the instruction the
word decodes to, in the state with that turn and that transaction gone. Program and schedule as data in State are the
model's choice (notes/assumptions/4.md). -/
def Obligations.StepRunsTransaction : Prop :=
  ∀ (s : State) (w : BusWord) (rest : List HostOp) (sch : List Turn),
    HostTurn s sch → s.program = .transaction w :: rest →
    step s = exec (decodeTransaction w) { s with program := rest, schedule := sch }

/-- R62: with BUSY = 1 and a legal command in CMD, the sequencer's turn, which it also has when the schedule is used up,
runs that command; with BUSY = 0 the sequencer's step is not enabled and its turn changes no register. The schedule is the
model's choice (notes/assumptions/4.md). -/
def Obligations.StepRunsCommand : Prop :=
  ∀ (s : State) (sch : List Turn),
    (SequencerTurn s sch → s.busy = true → ∀ i, decodeCommand s.cmd = .ok i →
      step s = exec i { s with schedule := sch }) ∧
    (s.schedule = .sequencer :: sch → s.busy = false → step s = .next { s with schedule := sch })

/-! ## The pseudo-instructions that depend on a byte read (30_encoding.md R90) -/

/-- R90: `CMD` is one write of the command's legal byte to CMD, `RUN` is `CMD` then `WAIT`, `WRN` and `RDN` are the writes
and reads of consecutive addresses from the base, `SETFCNT` writes the low and the high byte of the counter. That `WRN` and
`RDN` go on past the register's end, and past 0x7F around to 0x00, is the model's choice (notes/assumptions/16.md). -/
def Obligations.PseudoInstructionsExpand : Prop :=
  (∀ i : Instr, i.format = .cmd → ∃ (w : BusWord) (b : Byte), pseudoCmd i = [.transaction w] ∧
    decodeTransaction w = .wr 0x27 b ∧ decodeCommand b = .ok i ∧ pseudoRun i = [.transaction w, .wait]) ∧
  (∀ (base : Addr) (bytes : List Byte), (pseudoWrn base bytes).length = bytes.length ∧
    ∀ j : Fin bytes.length, ∃ w : BusWord, (pseudoWrn base bytes)[j.val]? = some (.transaction w) ∧
      decodeTransaction w = .wr (base + BitVec.ofNat 7 j.val) bytes[j]) ∧
  (∀ (base : Addr) (n : Nat), (pseudoRdn base n).length = n ∧
    ∀ j : Fin n, ∃ w : BusWord, (pseudoRdn base n)[j.val]? = some (.transaction w) ∧
      decodeTransaction w = .rd (base + BitVec.ofNat 7 j.val) 0x00) ∧
  (∀ n : BitVec 16, ∃ lo hi : BusWord, pseudoSetFcnt n.toNat = [.transaction lo, .transaction hi] ∧
    decodeTransaction lo = .wr 0x24 (n.extractLsb' 0 8) ∧ decodeTransaction hi = .wr 0x25 (n.extractLsb' 8 8))

/-- R90: the host's turn in a WAIT is one read of STATUS, and the WAIT goes on exactly if bit 0 (BUSY) of the byte it
returned is 1. -/
def Obligations.WaitRepeatsWhileBusy : Prop :=
  ∀ (s : State) (rest : List HostOp) (sch : List Turn), HostTurn s sch → s.program = .wait :: rest →
    let v := mapped s 0x28
    ∃ n : Nat, step s = .next { s with
      program := if v.toNat.testBit 0 then .wait :: rest else rest
      schedule := sch
      returned := v
      reads := v :: s.reads
      draws := n }

/-- R90, R62, R196: in every state of the invariant and for every schedule a WAIT ends: after some steps its reads, at
least one, have returned BUSY = 1 all but the last, the last has returned BUSY = 0, and the core is idle. The number of
steps is bounded by the schedule, which is the model's choice (notes/assumptions/4.md). -/
def Obligations.WaitEndsWhenIdle : Prop :=
  ∀ (s : State) (rest : List HostOp), CoreInv s → s.program = .wait :: rest →
    ∃ (n : Nat) (t : State) (v : Byte) (polls : List Byte), n ≤ s.schedule.length + 2 ∧
      Host.Core.run Sys2Proof.core n s = .next t ∧ t.program = rest ∧ t.busy = false ∧
      t.reads = v :: polls ++ s.reads ∧ v.toNat.testBit 0 = false ∧ ∀ p ∈ polls, p.toNat.testBit 0 = true

/-- R90, R60, R61, R62: from an idle core without an error, `RUN` of a command whose LEN is in range leaves, for every
schedule without a reset, the registers that the command's effect leaves, CMD with its byte, and reads of STATUS of which
the last alone returned BUSY = 0. The schedule is the model's choice (notes/assumptions/4.md). -/
def Obligations.RunCompletesCommand : Prop :=
  ∀ (s : State) (i : Instr) (b : Byte) (rest : List HostOp),
    s.busy = false → s.err = .none → decodeCommand b = .ok i → (i = .payload → s.len.toNat ≤ 64) →
    (i = .mic → 1 ≤ s.len.toNat ∧ s.len.toNat ≤ 64) → s.program = pseudoRun i ++ rest →
    (∀ r ∈ s.schedule, r ≠ .reset) →
    ∃ (n : Nat) (t u : State) (v : Byte) (polls : List Byte), n ≤ s.schedule.length + 3 ∧
      Host.Core.run Sys2Proof.core n s = .next t ∧ exec i s = .next u ∧
      t = { u with
        cmd := b, program := rest, schedule := t.schedule, reads := v :: polls ++ s.reads, returned := v,
        draws := t.draws } ∧
      v.toNat.testBit 0 = false ∧ ∀ p ∈ polls, p.toNat.testBit 0 = true

/-! ## Reads and writes of the register space -/

/-- R56, R50, R63: a read at any address answers, changes no register, and returns STATUS at 0x28 at any time and, when
idle, the byte of the map; the byte is observed. What a read while busy of another address returns is free. -/
def Obligations.ReadReturnsMappedByte : Prop :=
  ∀ (s : State) (a : Addr) (d : Byte), ∃ (b : Byte) (n : Nat),
    exec (.rd a d) s = .next { s with returned := b, reads := b :: s.reads, draws := n } ∧
    (a.toNat = 0x28 ∨ s.busy = false → b = mapped s a.toNat)

/-- R57 case 4, R52, R55: an idle write to a read-write data location puts the byte there; every other address reads
as before, and no register without an address changes. -/
def Obligations.WriteStoresDataByte : Prop :=
  ∀ (s : State) (a : Addr) (v : Byte), s.busy = false → isData a = true → ∃ t,
    exec (.wr a v) s = .next t ∧ mapped t a.toNat = v ∧
    (∀ b : Addr, b ≠ a → mapped t b.toNat = mapped s b.toNat) ∧ SameHidden s t

/-- R58: an idle write to RCON, ROUND, the reserved address or MIC changes no register and raises no error; the reserved
address reads 0x00; and no transaction, at any address and in any state, changes RCON, ROUND or MIC. -/
def Obligations.WriteReadOnlyIgnored : Prop :=
  (∀ (s : State) (a : Addr) (v : Byte), s.busy = false → 0x29 ≤ a.toNat → a.toNat ≤ 0x2F → ∃ (b : Byte) (n : Nat),
    exec (.wr a v) s = .next { s with returned := b, draws := n }) ∧
  (∀ (s : State) (d : Byte), s.busy = false → ∃ n : Nat,
    exec (.rd 0x2B d) s = .next { s with returned := 0x00, reads := 0x00 :: s.reads, draws := n }) ∧
  (∀ (i : Instr) (s t : State), i.format = .bus → exec i s = .next t →
    t.rcon = s.rcon ∧ t.round = s.round ∧ t.mic = s.mic)

/-- R59: a write to STATUS, at any time: `if v[1] = 1 then DONE <- 0; if v[4:2] != 0 then ERR <- 0`, and nothing else. -/
def Obligations.StatusWriteClears : Prop :=
  ∀ (s : State) (v : Byte), ∃ (b : Byte) (n : Nat), exec (.wr 0x28 v) s = .next { s with
    done := s.done && !(v.toNat.testBit 1)
    err := if v.toNat.testBit 2 || v.toNat.testBit 3 || v.toNat.testBit 4 then .none else s.err
    returned := b
    draws := n }

/-- R90, R59, R178: the host's turn in an ACK reads STATUS, and what follows is the write to STATUS of the byte that read
returned; when the host has the next turn too, by the schedule or with the schedule used up and no command running, ACK
leaves DONE = 0 and ERR = 0 and changes no other register. Program and schedule as data in State (notes/assumptions/4.md)
and ACK as an operation of the host (notes/assumptions/16.md) are the model's choice. -/
def Obligations.AckClearsDoneAndErr : Prop :=
  (∀ (s : State) (rest : List HostOp) (sch : List Turn), HostTurn s sch → s.program = .ack :: rest →
    let v := mapped s 0x28
    ∃ (w : BusWord) (n : Nat), decodeTransaction w = .wr 0x28 v ∧ step s = .next { s with
      program := .transaction w :: rest, schedule := sch, returned := v, reads := v :: s.reads, draws := n }) ∧
  (∀ (s : State) (rest : List HostOp) (mid sch : List Turn), s.program = .ack :: rest → HostTurn s mid →
    HostTurn { s with schedule := mid } sch →
    ∃ (b : Byte) (n : Nat), Host.Core.run Sys2Proof.core 2 s = .next { s with
      done := false, err := .none, program := rest, schedule := sch, returned := b, reads := mapped s 0x28 :: s.reads,
      draws := n })

/-- R60, R61, R179: a write to CMD with the core idle: dropped while ERR is not 0; else ILLEGAL_CMD for a byte that is
not legal; else LEN_RANGE for PAYLOAD with LEN above 64 or MIC with LEN 0 or above 64; else accepted. -/
def Obligations.CommandWriteOutcome : Prop :=
  ∀ (s : State) (v : Byte), s.busy = false → ∃ (b : Byte) (n : Nat),
    let badLen := (v = 0x0C ∧ 64 < s.len.toNat) ∨ (v = 0x1D ∧ (s.len.toNat = 0 ∨ 64 < s.len.toNat))
    (s.err ≠ .none → exec (.wr 0x27 v) s = .next { s with returned := b, draws := n }) ∧
    (s.err = .none → v ∉ legalBytes →
      exec (.wr 0x27 v) s = .next { s with err := .illegalCmd, returned := b, draws := n }) ∧
    (s.err = .none → v ∈ legalBytes → badLen →
      exec (.wr 0x27 v) s = .next { s with err := .lenRange, returned := b, draws := n }) ∧
    (s.err = .none → v ∈ legalBytes → ¬badLen →
      exec (.wr 0x27 v) s = .next { s with cmd := v, busy := true, done := false, returned := b, draws := n })

/-- R174, R173, R63: a write to any address but STATUS while BUSY = 1 is dropped, whatever the address and the value;
BUSY_ACCESS is recorded if ERR was 0, and the first error is kept otherwise. -/
def Obligations.BusyWriteDropped : Prop :=
  ∀ (s : State) (a : Addr) (v : Byte), s.busy = true → a ≠ 0x28 → ∃ (b : Byte) (n : Nat),
    exec (.wr a v) s = .next { s with
      err := if s.err = .none then .busyAccess else s.err, returned := b, draws := n }

/-- R171 to R175, R178: STATUS.ERR changes only by a write: a write to STATUS sets it to 0; any other write changes it
only if it was 0, to BUSY_ACCESS while busy, else, at CMD, to ILLEGAL_CMD or LEN_RANGE. -/
def Obligations.ErrChangesOnlyByWrites : Prop :=
  ∀ (i : Instr) (s t : State), exec i s = .next t → t.err ≠ s.err → ∃ (a : Addr) (v : Byte), i = .wr a v ∧
    ((a = 0x28 ∧ t.err = .none) ∨
     (a ≠ 0x28 ∧ s.err = .none ∧ s.busy = true ∧ t.err = .busyAccess) ∨
     (a = 0x27 ∧ s.err = .none ∧ s.busy = false ∧ (t.err = .illegalCmd ∨ t.err = .lenRange)))

/-! ## The micro-operations -/

/-- R102: LDSTATE. `for c in 0..3: for r in 0..3: STATE[r][c] <- BLOCK[r + 4*c]`. -/
def Obligations.LdstateLoadsColumns : Prop :=
  OnlyByte .ldstate 0x01 ∧ IllegalByte 0x11 ∧ ∀ s : State, ∃ m : AesState,
    exec .ldstate s = .next { s with state := m, busy := false, done := true } ∧
    ∀ r c : Fin 4, m[r][c] = s.block[r.val + 4 * c.val]

/-- R103: STSTATE. `for c in 0..3: for r in 0..3: BLOCK[r + 4*c] <- STATE[r][c]`. -/
def Obligations.StstateStoresColumns : Prop :=
  OnlyByte .ststate 0x02 ∧ IllegalByte 0x12 ∧ ∀ s : State, ∃ b : Block,
    exec .ststate s = .next { s with block := b, busy := false, done := true } ∧
    ∀ r c : Fin 4, b[r.val + 4 * c.val] = s.state[r][c]

/-- R105: SUBBYTES. `for r in 0..3: for c in 0..3: STATE[r][c] <- SBOX[STATE[r][c]]`. -/
def Obligations.SubbytesSubstitutes : Prop :=
  OnlyByte .subbytes 0x05 ∧ IllegalByte 0x15 ∧ ∀ s : State, ∃ m : AesState,
    exec .subbytes s = .next { s with state := m, busy := false, done := true } ∧
    ∀ r c : Fin 4, m[r][c] = sbox s.state[r][c]

/-- R104: each entry of the S-box is the affine map of the input's inverse in the field, that of 0x00 being 0x00; the
table is a permutation without a fixed point. -/
def Obligations.SboxIsAffineInverse : Prop :=
  sbox 0x00 = sboxAffine 0x00 ∧
  (∀ a : Byte, a ≠ 0x00 → ∃ x : Byte, gfMul a x = 0x01 ∧ sbox a = sboxAffine x) ∧
  (∀ a b : Byte, sbox a = sbox b → a = b) ∧ (∀ a : Byte, sbox a ≠ a)

/-- R106: SHIFTROWS. `NEW[r][c] <- STATE[r][(c + r) mod 4]`, all reads from the old state; done four times in a row it
restores the state. -/
def Obligations.ShiftrowsRotates : Prop :=
  OnlyByte .shiftrows 0x06 ∧ IllegalByte 0x16 ∧
  (∀ s : State, ∃ m : AesState,
    exec .shiftrows s = .next { s with state := m, busy := false, done := true } ∧
    ∀ r c : Fin 4, m[r][c] = s.state[r][(c.val + r.val) % 4]) ∧
  (∀ s : State, execAll (List.replicate 4 .shiftrows) s = .next { s with busy := false, done := true })

/-- R107: MIXCOLUMNS. Each column is multiplied by the circulant (2, 3, 1, 1) over GF(2^8); a column of four equal bytes
is unchanged. -/
def Obligations.MixcolumnsMultiplies : Prop :=
  OnlyByte .mixcolumns 0x07 ∧ IllegalByte 0x17 ∧ ∀ s : State, ∃ m : AesState,
    exec .mixcolumns s = .next { s with state := m, busy := false, done := true } ∧
    ∀ c : Fin 4,
      let a (r : Fin 4) : Byte := s.state[r][c]
      m[0][c] = gfMul 0x02 (a 0) ^^^ gfMul 0x03 (a 1) ^^^ a 2 ^^^ a 3 ∧
      m[1][c] = a 0 ^^^ gfMul 0x02 (a 1) ^^^ gfMul 0x03 (a 2) ^^^ a 3 ∧
      m[2][c] = a 0 ^^^ a 1 ^^^ gfMul 0x02 (a 2) ^^^ gfMul 0x03 (a 3) ∧
      m[3][c] = gfMul 0x03 (a 0) ^^^ a 1 ^^^ a 2 ^^^ gfMul 0x02 (a 3) ∧
      (∀ x : Byte, (∀ r : Fin 4, a r = x) → ∀ r : Fin 4, m[r][c] = x)

/-- R108: KEYSTEP. `t` from the last four bytes of RK and RCON; the four words in order, each XOR the new word before it;
`RCON <- xtime(RCON)`; `ROUND <- (ROUND + 1) mod 16`. -/
def Obligations.KeystepDerivesNextKey : Prop :=
  OnlyByte .keystep 0x08 ∧ IllegalByte 0x18 ∧ ∀ s : State, ∃ (k : Block) (rcon : Byte) (round : BitVec 4),
    exec .keystep s = .next { s with rk := k, rcon := rcon, round := round, busy := false, done := true } ∧
    k[0] = s.rk[0] ^^^ (sbox s.rk[13] ^^^ s.rcon) ∧ k[1] = s.rk[1] ^^^ sbox s.rk[14] ∧
    k[2] = s.rk[2] ^^^ sbox s.rk[15] ∧ k[3] = s.rk[3] ^^^ sbox s.rk[12] ∧
    (∀ j : Fin 12, k[j.val + 4] = s.rk[j.val + 4] ^^^ k[j.val]) ∧
    rcon = gfMul 0x02 s.rcon ∧ round.toNat = (s.round.toNat + 1) % 16

/-- R109: ADDROUNDKEY. `STATE[r][c] <- STATE[r][c] ^ RK[r + 4*c]`; done twice with the same RK it restores the state. -/
def Obligations.AddroundkeyXorsKey : Prop :=
  OnlyByte .addroundkey 0x09 ∧ IllegalByte 0x19 ∧
  (∀ s : State, ∃ m : AesState,
    exec .addroundkey s = .next { s with state := m, busy := false, done := true } ∧
    ∀ r c : Fin 4, m[r][c] = s.state[r][c] ^^^ s.rk[r.val + 4 * c.val]) ∧
  (∀ s : State, execAll [.addroundkey, .addroundkey] s = .next { s with busy := false, done := true })

/-- R110: LDKEY.k. `RK[j] <- KEY[KSEL][j]; RCON <- 0x01; ROUND <- 0`, with 0x03 for KEY_APP and 0x13 for KEY_NWK. -/
def Obligations.LdkeyLoadsSelectedKey : Prop :=
  OnlyByte (.ldkey .app) 0x03 ∧ OnlyByte (.ldkey .nwk) 0x13 ∧ ∀ s : State,
    exec (.ldkey .app) s =
      .next { s with rk := s.keyApp, rcon := 0x01, round := 0, busy := false, done := true } ∧
    exec (.ldkey .nwk) s =
      .next { s with rk := s.keyNwk, rcon := 0x01, round := 0, busy := false, done := true }

/-- R111: STRK. `BLOCK[j] <- RK[j]`. -/
def Obligations.StrkCopiesRoundKey : Prop :=
  OnlyByte .strk 0x04 ∧ IllegalByte 0x14 ∧ ∀ s : State, exec .strk s = .next { s with block := s.rk, busy := false, done := true }

/-- R113, R110, R108: after LDKEY.k and `n` KEYSTEPs, RK holds the words `w[4n]` to `w[4n+3]` of the key schedule, RCON the
round constant number `n + 1`, ROUND `n mod 16`; nothing else has changed. For `n` up to 10 these are the round keys of
AES-128 (R113); for larger `n` they are the schedule's recurrence continued, which is R108's. -/
def Obligations.KeystepsFollowStandardExpansion : Prop :=
  ∀ (s : State) (n : Nat),
    execAll (.ldkey .app :: List.replicate n .keystep) s = .next { s with
      rk := roundKey s.keyApp n, rcon := roundConstant n, round := BitVec.ofNat 4 n, busy := false, done := true } ∧
    execAll (.ldkey .nwk :: List.replicate n .keystep) s = .next { s with
      rk := roundKey s.keyNwk n, rcon := roundConstant n, round := BitVec.ofNat 4 n, busy := false, done := true }

/-! ## The block encryption -/

/-- R130, R131: one AESENC gives the state that the micro-operations of AES_RUN give when they are issued one by one.
For `INITIAL_ARK = true`, the spec's own decision D1 (notes/assumptions/1.md). -/
def Obligations.AesencIsRoundSequence : Prop :=
  Config.initialArk = true → OnlyByte (.aesenc .app) 0x0A ∧ OnlyByte (.aesenc .nwk) 0x1A ∧
    ∀ (k : KeySel) (s : State), ∃ t, exec (.aesenc k) s = .next t ∧ execAll (roundSequence k) s = .next t

/-- R134, R132, R131: AESENC.k replaces BLOCK by its AES-128 encryption under the selected key, as the standard defines it
with a key schedule computed beforehand; STATE holds the same bytes, RK round key 10, RCON 0x6C, ROUND 10; nothing else
changes, and the result does not depend on the earlier STATE, RK, RCON, ROUND. For `INITIAL_ARK = true`, the spec's own
decision D1 (notes/assumptions/1.md). -/
def Obligations.AesencIsStandardCipher : Prop :=
  Config.initialArk = true → ∀ s : State,
    (let c := fipsEncrypt s.keyApp s.block
     exec (.aesenc .app) s = .next { s with
       block := c, state := inStateOrder c, rk := roundKey s.keyApp 10, rcon := 0x6C, round := 10,
       busy := false, done := true }) ∧
    (let c := fipsEncrypt s.keyNwk s.block
     exec (.aesenc .nwk) s = .next { s with
       block := c, state := inStateOrder c, rk := roundKey s.keyNwk 10, rcon := 0x6C, round := 10,
       busy := false, done := true })

/-! ## The payload cipher -/

/-- R142, R140, R141: PAYLOAD with LEN 1 to 64 XORs keystream block `k/16 + 1` into byte `k` of BUF for `k < LEN`, leaves
the rest of BUF, and leaves the last keystream block in BLOCK and STATE, round key 10 of KEY_APP in RK, RCON 0x6C and
ROUND 10; with LEN 0 it changes no register. For `INITIAL_ARK = true`, the spec's own decision D1
(notes/assumptions/1.md). -/
def Obligations.PayloadXorsKeystream : Prop :=
  Config.initialArk = true → OnlyByte .payload 0x0C ∧ IllegalByte 0x1C ∧ ∀ s : State,
    (s.len.toNat = 0 → exec .payload s = .next { s with busy := false, done := true }) ∧
    (1 ≤ s.len.toNat → s.len.toNat ≤ 64 →
      let last := keystream s ((s.len.toNat + 15) / 16)
      ∃ b : Buffer,
        exec .payload s = .next { s with
          buf := b, block := last, state := inStateOrder last, rk := roundKey s.keyApp 10, rcon := 0x6C, round := 10,
          busy := false, done := true } ∧
        ∀ k : Fin 64, b[k] =
          if k.val < s.len.toNat then s.buf[k] ^^^ (keystream s (k.val / 16 + 1)).toList.getD (k.val % 16) 0x00
          else s.buf[k])

/-- R143: running PAYLOAD again, whatever else has changed, with the same LEN, DEVADDR, KEY_APP and FCNT restores
`BUF[0..LEN-1]`. It holds with and without the initial key addition. -/
def Obligations.PayloadIsInvolution : Prop :=
  ∀ s : State, s.len.toNat ≤ 64 → ∃ t, exec .payload s = .next t ∧
    ∀ u : State, u.buf = t.buf → u.len = s.len → u.devAddr = s.devAddr → u.keyApp = s.keyApp →
      u.fcntLo = s.fcntLo → u.fcntHi = s.fcntHi →
      ∃ v, exec .payload u = .next v ∧ ∀ k : Fin 64, k.val < s.len.toNat → v.buf[k] = s.buf[k]

/-! ## The MIC generator -/

/-- R150, R153: DBL. Byte by byte as the pseudocode says, and as one number: BLOCK, element 0 the most significant byte,
shifted left by one with 0x87 XORed in when the top bit was set. -/
def Obligations.DblDoublesBlock : Prop :=
  OnlyByte .dbl 0x0B ∧ IllegalByte 0x1B ∧ ∀ s : State, ∃ b : Block,
    exec .dbl s = .next { s with block := b, busy := false, done := true } ∧
    (∀ i : Fin 15, b[i.val] = (s.block[i.val] <<< 1) ||| (s.block[i.val + 1] >>> 7)) ∧
    b[15] = (if s.block[0].getLsbD 7 then (s.block[15] <<< 1) ^^^ 0x87 else s.block[15] <<< 1) ∧
    number b = doubled (number s.block)

/-- R155, R154, R151, R152: for LEN 1 to 64, MIC leaves in BLOCK the AES-CMAC under KEY_NWK of block B(LEN) followed by
`BUF[0..LEN-1]`, in MIC its first four bytes, in K1 and K2 the subkeys, in CHAIN the chain value that entered the last
block, in STATE the tag, in RK round key 10 of KEY_NWK, RCON 0x6C, ROUND 10; nothing else changes. For
`INITIAL_ARK = true`, the spec's own decision D1 (notes/assumptions/1.md). -/
def Obligations.MicIsCmacOfHeaderAndMessage : Prop :=
  Config.initialArk = true → OnlyByte .mic 0x1D ∧ IllegalByte 0x0D ∧ ∀ s : State, 1 ≤ s.len.toNat → s.len.toNat ≤ 64 →
    let e := fipsEncrypt s.keyNwk
    let chain := (cmac e (micMessage s)).1
    let tag := (cmac e (micMessage s)).2
    exec .mic s = .next { s with
      mic := #v[tag[0], tag[1], tag[2], tag[3]], block := tag, state := inStateOrder tag, rk := roundKey s.keyNwk 10,
      rcon := 0x6C, round := 10, k1 := cmacK1 e, k2 := cmacK2 e, chain := chain, busy := false, done := true }

/-- R156: the tag is a function of `BUF[0..LEN-1]`, LEN, KEY_NWK, DEVADDR and FCNT: two states that agree on these get the
same MIC and the same BLOCK, whatever else they hold. It holds with and without the initial key addition. -/
def Obligations.MicDependsOnInputsOnly : Prop :=
  ∀ s t : State, 1 ≤ s.len.toNat → s.len.toNat ≤ 64 → t.len = s.len → t.keyNwk = s.keyNwk → t.devAddr = s.devAddr →
    t.fcntLo = s.fcntLo → t.fcntHi = s.fcntHi → (∀ k : Fin 64, k.val < s.len.toNat → t.buf[k] = s.buf[k]) →
    ∃ s' t', exec .mic s = .next s' ∧ exec .mic t = .next t' ∧ s'.mic = t'.mic ∧ s'.block = t'.block

/-! ## The whole machine -/

/-- R45: every command, in every state, completes (BUSY = 0, DONE = 1) and writes nothing outside its write set. -/
def Obligations.CommandsKeepWriteSets : Prop :=
  ∀ (i : Instr) (s : State), i.format = .cmd → ∃ t, exec i s = .next t ∧ t.busy = false ∧ t.done = true ∧ WriteSet s t i

/-- R21, R22, R23, R24, R25, R27: no command writes the keys, the device address, the frame counter or LEN, and only
MIC writes the MIC register; a transaction never writes it. -/
def Obligations.SessionWrittenByHostOnly : Prop :=
  ∀ (i : Instr) (s t : State), exec i s = .next t →
    (i.format = .cmd → t.keyApp = s.keyApp ∧ t.keyNwk = s.keyNwk ∧ t.devAddr = s.devAddr ∧ t.fcntLo = s.fcntLo ∧
      t.fcntHi = s.fcntHi ∧ t.len = s.len) ∧
    (t.mic ≠ s.mic → i = .mic)

/-- R63, R62: while BUSY = 1 a transaction changes no register but STATUS.DONE and STATUS.ERR: the running command is not
disturbed. -/
def Obligations.BusyTransactionsDisturbNothing : Prop :=
  ∀ (i : Instr) (s : State), s.busy = true → i.format = .bus → ∃ t, exec i s = .next t ∧
    t = { s with done := t.done, err := t.err, reads := t.reads, returned := t.returned, draws := t.draws }

/-- R62, R63, R196: a running command, whatever the host does meanwhile, completes at the sequencer's next turn with the
effect it would have had at once, STATUS.ERR apart; BUSY is then 0 and DONE 1. The schedule, which holds no reset before
that turn, and the completion at its end are the model's choice (notes/assumptions/4.md). -/
def Obligations.AcceptedCommandCompletes : Prop :=
  ∀ (s : State) (i : Instr), s.busy = true → decodeCommand s.cmd = .ok i →
    (∀ r ∈ s.schedule.take (turnsLeft s.schedule), r ≠ .reset) →
    ∃ t u, Host.Core.run Sys2Proof.core (turnsLeft s.schedule + 1) s = .next t ∧ exec i s = .next u ∧
      SameRegistersButErr u t ∧ t.busy = false ∧ t.done = true

/-- R190, R191: a reset, at any point, a running command included, leaves STATUS = 0x00 and CMD = 0x00 with the sequencer
idle. Of the other registers nothing is said. The host's program and the bytes it has read stay, which is the model's
choice (notes/assumptions/9.md). -/
def Obligations.ResetDiscardsCommand : Prop :=
  ∀ (s : State) (sch : List Turn), s.schedule = .reset :: sch → ∃ t, step s = .next t ∧
    t.busy = false ∧ t.done = false ∧ t.err = .none ∧ t.cmd = 0x00 ∧ mapped t 0x28 = 0x00 ∧ t.schedule = sch ∧
    t.program = s.program ∧ t.reads = s.reads

/-- R43, R191: after reset STATUS and CMD read 0x00, and the invariant holds. That the host's program and the schedule,
fields of the model's own, are empty at reset is the model's choice (notes/assumptions/2.md). -/
def Obligations.ResetMeetsInvariant : Prop :=
  CoreInv State.reset ∧ mapped State.reset 0x28 = 0x00 ∧ mapped State.reset 0x27 = 0x00 ∧
    State.reset.program = [] ∧ State.reset.schedule = []

/-- R29, R31, R32, R60 to R63: the invariant (CMD holds 0x00 or a legal byte; a running command is legal, its LEN in range
and DONE 0; DONE = 1 only with a command in CMD) is kept by every step. -/
def Obligations.StepKeepsInvariant : Prop :=
  ∀ s t : State, CoreInv s → step s = .next t → CoreInv t

/-- R197, R62: the core never halts: from a state of the invariant every step answers a next state; an idle core with
its schedule used up and no program stays as it is (notes/assumptions/4.md). -/
def Obligations.CoreNeverHalts : Prop :=
  (∀ s : State, CoreInv s → Safe s) ∧
    (∀ s : State, s.busy = false → s.schedule = [] → s.program = [] → step s = .next s)
end

