-- ==== Sys2Proof/Laws/Bytes.lean ====
section
/-! SUPPORT. What the byte and block functions of Machine/Bytes.lean do, entry by entry, and the laws that follow. -/

namespace Sys2Proof.Machine

/-! ## Entries -/

theorem stateOf_get (f : Fin 4 → Fin 4 → Byte) (r c : Fin 4) : (stateOf f)[r][c] = f r c := by
  simp [stateOf]

theorem state_ext {m n : AesState} (h : ∀ r c : Fin 4, m[r][c] = n[r][c]) : m = n := by
  apply Vector.ext
  intro r hr
  apply Vector.ext
  intro c hc
  exact h ⟨r, hr⟩ ⟨c, hc⟩

theorem blockToState_get (b : Block) (r c : Fin 4) : (blockToState b)[r][c] = b[r.val + 4 * c.val] := stateOf_get _ r c

theorem stateToBlock_get (m : AesState) (r c : Fin 4) : (stateToBlock m)[r.val + 4 * c.val] = m[r][c] := by
  have hr : (r.val + 4 * c.val) % 4 = r.val := by omega
  have hc : (r.val + 4 * c.val) / 4 = c.val := by omega
  simp [stateToBlock, hr, hc]

theorem subBytes_get (m : AesState) (r c : Fin 4) : (subBytes m)[r][c] = sbox m[r][c] := stateOf_get _ r c

theorem shiftRows_get (m : AesState) (r c : Fin 4) : (shiftRows m)[r][c] = m[r][c + r] := stateOf_get _ r c

theorem mixColumns_get (m : AesState) (r c : Fin 4) :
    (mixColumns m)[r][c] = (mixColumn m[0][c] m[1][c] m[2][c] m[3][c])[r] := stateOf_get _ r c

theorem addRoundKey_get (k : Block) (m : AesState) (r c : Fin 4) :
    (addRoundKey k m)[r][c] = m[r][c] ^^^ k[r.val + 4 * c.val] := stateOf_get _ r c

theorem xorBlock_get (x y : Block) (j : Fin 16) : (xorBlock x y)[j] = x[j] ^^^ y[j] := by
  simp [xorBlock]

/-! ## Laws -/

/-- STSTATE undoes LDSTATE (R102). -/
theorem stateToBlock_blockToState (b : Block) : stateToBlock (blockToState b) = b := by
  apply Vector.ext
  intro j hj
  have h := stateToBlock_get (blockToState b) ⟨j % 4, Nat.mod_lt _ (by decide)⟩ ⟨j / 4, by omega⟩
  rw [blockToState_get] at h
  have e : j % 4 + 4 * (j / 4) = j := by omega
  simpa [e] using h

/-- LDSTATE undoes STSTATE (R103). -/
theorem blockToState_stateToBlock (m : AesState) : blockToState (stateToBlock m) = m :=
  state_ext fun r c => by rw [blockToState_get, stateToBlock_get]

/-- ADDROUNDKEY twice with one key restores the state (R109). -/
theorem addRoundKey_twice (k : Block) (m : AesState) : addRoundKey k (addRoundKey k m) = m :=
  state_ext fun r c => by rw [addRoundKey_get, addRoundKey_get, BitVec.xor_assoc, BitVec.xor_self, BitVec.xor_zero]

/-- SHIFTROWS four times restores the state (R106). -/
theorem shiftRows_four (m : AesState) : shiftRows (shiftRows (shiftRows (shiftRows m))) = m :=
  state_ext fun r c => by
    simp only [shiftRows_get]
    have e : c + r + r + r + r = c := by revert r c; decide
    simp only [e]

/-- XOR of blocks cancels (R14, R143). -/
theorem xorBlock_cancel (x y : Block) : xorBlock (xorBlock x y) y = x := by
  apply Vector.ext
  intro j hj
  have h := xorBlock_get (xorBlock x y) y ⟨j, hj⟩
  have h' := xorBlock_get x y ⟨j, hj⟩
  simp only [Fin.getElem_fin] at h h'
  rw [h, h', BitVec.xor_assoc, BitVec.xor_self, BitVec.xor_zero]

/-- The bytes of the next round key (R108). -/
theorem nextRoundKey_head (k : Block) (c : Byte) :
    (nextRoundKey k c)[0] = k[0] ^^^ (sbox k[13] ^^^ c) ∧ (nextRoundKey k c)[1] = k[1] ^^^ sbox k[14] ∧
    (nextRoundKey k c)[2] = k[2] ^^^ sbox k[15] ∧ (nextRoundKey k c)[3] = k[3] ^^^ sbox k[12] := by
  simp [nextRoundKey, xorQuad, keyWord, keyTemp]

/-- Each later byte of the next round key is the old byte XOR the new byte four places before it (R108). -/
theorem nextRoundKey_tail (k : Block) (c : Byte) (j : Fin 12) :
    (nextRoundKey k c)[j.val + 4] = k[j.val + 4] ^^^ (nextRoundKey k c)[j.val] := by
  fin_cases j <;> simp [nextRoundKey, xorQuad, keyWord]

end Sys2Proof.Machine
end

