-- ==== Sys2Proof/Laws/State.lean ====
section
/-! SUPPORT. One lemma per field per named update of the state. -/

namespace Sys2Proof.Machine

variable (s : State)

@[simp] theorem raiseError_keyApp (e : ErrCode) : (raiseError e s).keyApp = s.keyApp := rfl
@[simp] theorem raiseError_keyNwk (e : ErrCode) : (raiseError e s).keyNwk = s.keyNwk := rfl
@[simp] theorem raiseError_devAddr (e : ErrCode) : (raiseError e s).devAddr = s.devAddr := rfl
@[simp] theorem raiseError_fcntLo (e : ErrCode) : (raiseError e s).fcntLo = s.fcntLo := rfl
@[simp] theorem raiseError_fcntHi (e : ErrCode) : (raiseError e s).fcntHi = s.fcntHi := rfl
@[simp] theorem raiseError_len (e : ErrCode) : (raiseError e s).len = s.len := rfl
@[simp] theorem raiseError_cmd (e : ErrCode) : (raiseError e s).cmd = s.cmd := rfl
@[simp] theorem raiseError_busy (e : ErrCode) : (raiseError e s).busy = s.busy := rfl
@[simp] theorem raiseError_done (e : ErrCode) : (raiseError e s).done = s.done := rfl
@[simp] theorem raiseError_err (e : ErrCode) : (raiseError e s).err = errAfterRaise e s.err := rfl
@[simp] theorem raiseError_rcon (e : ErrCode) : (raiseError e s).rcon = s.rcon := rfl
@[simp] theorem raiseError_round (e : ErrCode) : (raiseError e s).round = s.round := rfl
@[simp] theorem raiseError_mic (e : ErrCode) : (raiseError e s).mic = s.mic := rfl
@[simp] theorem raiseError_block (e : ErrCode) : (raiseError e s).block = s.block := rfl
@[simp] theorem raiseError_buf (e : ErrCode) : (raiseError e s).buf = s.buf := rfl
@[simp] theorem raiseError_state (e : ErrCode) : (raiseError e s).state = s.state := rfl
@[simp] theorem raiseError_rk (e : ErrCode) : (raiseError e s).rk = s.rk := rfl
@[simp] theorem raiseError_k1 (e : ErrCode) : (raiseError e s).k1 = s.k1 := rfl
@[simp] theorem raiseError_k2 (e : ErrCode) : (raiseError e s).k2 = s.k2 := rfl
@[simp] theorem raiseError_chain (e : ErrCode) : (raiseError e s).chain = s.chain := rfl
@[simp] theorem raiseError_program (e : ErrCode) : (raiseError e s).program = s.program := rfl
@[simp] theorem raiseError_schedule (e : ErrCode) : (raiseError e s).schedule = s.schedule := rfl
@[simp] theorem raiseError_reads (e : ErrCode) : (raiseError e s).reads = s.reads := rfl
@[simp] theorem raiseError_returned (e : ErrCode) : (raiseError e s).returned = s.returned := rfl
@[simp] theorem raiseError_draws (e : ErrCode) : (raiseError e s).draws = s.draws := rfl

@[simp] theorem acknowledge_keyApp (v : Byte) : (acknowledge v s).keyApp = s.keyApp := rfl
@[simp] theorem acknowledge_keyNwk (v : Byte) : (acknowledge v s).keyNwk = s.keyNwk := rfl
@[simp] theorem acknowledge_devAddr (v : Byte) : (acknowledge v s).devAddr = s.devAddr := rfl
@[simp] theorem acknowledge_fcntLo (v : Byte) : (acknowledge v s).fcntLo = s.fcntLo := rfl
@[simp] theorem acknowledge_fcntHi (v : Byte) : (acknowledge v s).fcntHi = s.fcntHi := rfl
@[simp] theorem acknowledge_len (v : Byte) : (acknowledge v s).len = s.len := rfl
@[simp] theorem acknowledge_cmd (v : Byte) : (acknowledge v s).cmd = s.cmd := rfl
@[simp] theorem acknowledge_busy (v : Byte) : (acknowledge v s).busy = s.busy := rfl
@[simp] theorem acknowledge_done (v : Byte) : (acknowledge v s).done = doneAfterAck v s.done := rfl
@[simp] theorem acknowledge_err (v : Byte) : (acknowledge v s).err = errAfterAck v s.err := rfl
@[simp] theorem acknowledge_rcon (v : Byte) : (acknowledge v s).rcon = s.rcon := rfl
@[simp] theorem acknowledge_round (v : Byte) : (acknowledge v s).round = s.round := rfl
@[simp] theorem acknowledge_mic (v : Byte) : (acknowledge v s).mic = s.mic := rfl
@[simp] theorem acknowledge_block (v : Byte) : (acknowledge v s).block = s.block := rfl
@[simp] theorem acknowledge_buf (v : Byte) : (acknowledge v s).buf = s.buf := rfl
@[simp] theorem acknowledge_state (v : Byte) : (acknowledge v s).state = s.state := rfl
@[simp] theorem acknowledge_rk (v : Byte) : (acknowledge v s).rk = s.rk := rfl
@[simp] theorem acknowledge_k1 (v : Byte) : (acknowledge v s).k1 = s.k1 := rfl
@[simp] theorem acknowledge_k2 (v : Byte) : (acknowledge v s).k2 = s.k2 := rfl
@[simp] theorem acknowledge_chain (v : Byte) : (acknowledge v s).chain = s.chain := rfl
@[simp] theorem acknowledge_program (v : Byte) : (acknowledge v s).program = s.program := rfl
@[simp] theorem acknowledge_schedule (v : Byte) : (acknowledge v s).schedule = s.schedule := rfl
@[simp] theorem acknowledge_reads (v : Byte) : (acknowledge v s).reads = s.reads := rfl
@[simp] theorem acknowledge_returned (v : Byte) : (acknowledge v s).returned = s.returned := rfl
@[simp] theorem acknowledge_draws (v : Byte) : (acknowledge v s).draws = s.draws := rfl

@[simp] theorem accept_keyApp (v : Byte) : (accept v s).keyApp = s.keyApp := rfl
@[simp] theorem accept_keyNwk (v : Byte) : (accept v s).keyNwk = s.keyNwk := rfl
@[simp] theorem accept_devAddr (v : Byte) : (accept v s).devAddr = s.devAddr := rfl
@[simp] theorem accept_fcntLo (v : Byte) : (accept v s).fcntLo = s.fcntLo := rfl
@[simp] theorem accept_fcntHi (v : Byte) : (accept v s).fcntHi = s.fcntHi := rfl
@[simp] theorem accept_len (v : Byte) : (accept v s).len = s.len := rfl
@[simp] theorem accept_cmd (v : Byte) : (accept v s).cmd = v := rfl
@[simp] theorem accept_busy (v : Byte) : (accept v s).busy = true := rfl
@[simp] theorem accept_done (v : Byte) : (accept v s).done = false := rfl
@[simp] theorem accept_err (v : Byte) : (accept v s).err = s.err := rfl
@[simp] theorem accept_rcon (v : Byte) : (accept v s).rcon = s.rcon := rfl
@[simp] theorem accept_round (v : Byte) : (accept v s).round = s.round := rfl
@[simp] theorem accept_mic (v : Byte) : (accept v s).mic = s.mic := rfl
@[simp] theorem accept_block (v : Byte) : (accept v s).block = s.block := rfl
@[simp] theorem accept_buf (v : Byte) : (accept v s).buf = s.buf := rfl
@[simp] theorem accept_state (v : Byte) : (accept v s).state = s.state := rfl
@[simp] theorem accept_rk (v : Byte) : (accept v s).rk = s.rk := rfl
@[simp] theorem accept_k1 (v : Byte) : (accept v s).k1 = s.k1 := rfl
@[simp] theorem accept_k2 (v : Byte) : (accept v s).k2 = s.k2 := rfl
@[simp] theorem accept_chain (v : Byte) : (accept v s).chain = s.chain := rfl
@[simp] theorem accept_program (v : Byte) : (accept v s).program = s.program := rfl
@[simp] theorem accept_schedule (v : Byte) : (accept v s).schedule = s.schedule := rfl
@[simp] theorem accept_reads (v : Byte) : (accept v s).reads = s.reads := rfl
@[simp] theorem accept_returned (v : Byte) : (accept v s).returned = s.returned := rfl
@[simp] theorem accept_draws (v : Byte) : (accept v s).draws = s.draws := rfl

@[simp] theorem complete_keyApp : (complete s).keyApp = s.keyApp := rfl
@[simp] theorem complete_keyNwk : (complete s).keyNwk = s.keyNwk := rfl
@[simp] theorem complete_devAddr : (complete s).devAddr = s.devAddr := rfl
@[simp] theorem complete_fcntLo : (complete s).fcntLo = s.fcntLo := rfl
@[simp] theorem complete_fcntHi : (complete s).fcntHi = s.fcntHi := rfl
@[simp] theorem complete_len : (complete s).len = s.len := rfl
@[simp] theorem complete_cmd : (complete s).cmd = s.cmd := rfl
@[simp] theorem complete_busy : (complete s).busy = false := rfl
@[simp] theorem complete_done : (complete s).done = true := rfl
@[simp] theorem complete_err : (complete s).err = s.err := rfl
@[simp] theorem complete_rcon : (complete s).rcon = s.rcon := rfl
@[simp] theorem complete_round : (complete s).round = s.round := rfl
@[simp] theorem complete_mic : (complete s).mic = s.mic := rfl
@[simp] theorem complete_block : (complete s).block = s.block := rfl
@[simp] theorem complete_buf : (complete s).buf = s.buf := rfl
@[simp] theorem complete_state : (complete s).state = s.state := rfl
@[simp] theorem complete_rk : (complete s).rk = s.rk := rfl
@[simp] theorem complete_k1 : (complete s).k1 = s.k1 := rfl
@[simp] theorem complete_k2 : (complete s).k2 = s.k2 := rfl
@[simp] theorem complete_chain : (complete s).chain = s.chain := rfl
@[simp] theorem complete_program : (complete s).program = s.program := rfl
@[simp] theorem complete_schedule : (complete s).schedule = s.schedule := rfl
@[simp] theorem complete_reads : (complete s).reads = s.reads := rfl
@[simp] theorem complete_returned : (complete s).returned = s.returned := rfl
@[simp] theorem complete_draws : (complete s).draws = s.draws := rfl

@[simp] theorem endTransaction_keyApp (b : Byte) : (endTransaction b s).keyApp = s.keyApp := rfl
@[simp] theorem endTransaction_keyNwk (b : Byte) : (endTransaction b s).keyNwk = s.keyNwk := rfl
@[simp] theorem endTransaction_devAddr (b : Byte) : (endTransaction b s).devAddr = s.devAddr := rfl
@[simp] theorem endTransaction_fcntLo (b : Byte) : (endTransaction b s).fcntLo = s.fcntLo := rfl
@[simp] theorem endTransaction_fcntHi (b : Byte) : (endTransaction b s).fcntHi = s.fcntHi := rfl
@[simp] theorem endTransaction_len (b : Byte) : (endTransaction b s).len = s.len := rfl
@[simp] theorem endTransaction_cmd (b : Byte) : (endTransaction b s).cmd = s.cmd := rfl
@[simp] theorem endTransaction_busy (b : Byte) : (endTransaction b s).busy = s.busy := rfl
@[simp] theorem endTransaction_done (b : Byte) : (endTransaction b s).done = s.done := rfl
@[simp] theorem endTransaction_err (b : Byte) : (endTransaction b s).err = s.err := rfl
@[simp] theorem endTransaction_rcon (b : Byte) : (endTransaction b s).rcon = s.rcon := rfl
@[simp] theorem endTransaction_round (b : Byte) : (endTransaction b s).round = s.round := rfl
@[simp] theorem endTransaction_mic (b : Byte) : (endTransaction b s).mic = s.mic := rfl
@[simp] theorem endTransaction_block (b : Byte) : (endTransaction b s).block = s.block := rfl
@[simp] theorem endTransaction_buf (b : Byte) : (endTransaction b s).buf = s.buf := rfl
@[simp] theorem endTransaction_state (b : Byte) : (endTransaction b s).state = s.state := rfl
@[simp] theorem endTransaction_rk (b : Byte) : (endTransaction b s).rk = s.rk := rfl
@[simp] theorem endTransaction_k1 (b : Byte) : (endTransaction b s).k1 = s.k1 := rfl
@[simp] theorem endTransaction_k2 (b : Byte) : (endTransaction b s).k2 = s.k2 := rfl
@[simp] theorem endTransaction_chain (b : Byte) : (endTransaction b s).chain = s.chain := rfl
@[simp] theorem endTransaction_program (b : Byte) : (endTransaction b s).program = s.program := rfl
@[simp] theorem endTransaction_schedule (b : Byte) : (endTransaction b s).schedule = s.schedule := rfl
@[simp] theorem endTransaction_reads (b : Byte) : (endTransaction b s).reads = s.reads := rfl
@[simp] theorem endTransaction_returned (b : Byte) : (endTransaction b s).returned = b := rfl
@[simp] theorem endTransaction_draws (b : Byte) : (endTransaction b s).draws = s.draws + 1 := rfl

@[simp] theorem observe_keyApp (b : Byte) : (observe b s).keyApp = s.keyApp := rfl
@[simp] theorem observe_keyNwk (b : Byte) : (observe b s).keyNwk = s.keyNwk := rfl
@[simp] theorem observe_devAddr (b : Byte) : (observe b s).devAddr = s.devAddr := rfl
@[simp] theorem observe_fcntLo (b : Byte) : (observe b s).fcntLo = s.fcntLo := rfl
@[simp] theorem observe_fcntHi (b : Byte) : (observe b s).fcntHi = s.fcntHi := rfl
@[simp] theorem observe_len (b : Byte) : (observe b s).len = s.len := rfl
@[simp] theorem observe_cmd (b : Byte) : (observe b s).cmd = s.cmd := rfl
@[simp] theorem observe_busy (b : Byte) : (observe b s).busy = s.busy := rfl
@[simp] theorem observe_done (b : Byte) : (observe b s).done = s.done := rfl
@[simp] theorem observe_err (b : Byte) : (observe b s).err = s.err := rfl
@[simp] theorem observe_rcon (b : Byte) : (observe b s).rcon = s.rcon := rfl
@[simp] theorem observe_round (b : Byte) : (observe b s).round = s.round := rfl
@[simp] theorem observe_mic (b : Byte) : (observe b s).mic = s.mic := rfl
@[simp] theorem observe_block (b : Byte) : (observe b s).block = s.block := rfl
@[simp] theorem observe_buf (b : Byte) : (observe b s).buf = s.buf := rfl
@[simp] theorem observe_state (b : Byte) : (observe b s).state = s.state := rfl
@[simp] theorem observe_rk (b : Byte) : (observe b s).rk = s.rk := rfl
@[simp] theorem observe_k1 (b : Byte) : (observe b s).k1 = s.k1 := rfl
@[simp] theorem observe_k2 (b : Byte) : (observe b s).k2 = s.k2 := rfl
@[simp] theorem observe_chain (b : Byte) : (observe b s).chain = s.chain := rfl
@[simp] theorem observe_program (b : Byte) : (observe b s).program = s.program := rfl
@[simp] theorem observe_schedule (b : Byte) : (observe b s).schedule = s.schedule := rfl
@[simp] theorem observe_reads (b : Byte) : (observe b s).reads = b :: s.reads := rfl
@[simp] theorem observe_returned (b : Byte) : (observe b s).returned = s.returned := rfl
@[simp] theorem observe_draws (b : Byte) : (observe b s).draws = s.draws := rfl

@[simp] theorem setState_keyApp (m : AesState) : (setState m s).keyApp = s.keyApp := rfl
@[simp] theorem setState_keyNwk (m : AesState) : (setState m s).keyNwk = s.keyNwk := rfl
@[simp] theorem setState_devAddr (m : AesState) : (setState m s).devAddr = s.devAddr := rfl
@[simp] theorem setState_fcntLo (m : AesState) : (setState m s).fcntLo = s.fcntLo := rfl
@[simp] theorem setState_fcntHi (m : AesState) : (setState m s).fcntHi = s.fcntHi := rfl
@[simp] theorem setState_len (m : AesState) : (setState m s).len = s.len := rfl
@[simp] theorem setState_cmd (m : AesState) : (setState m s).cmd = s.cmd := rfl
@[simp] theorem setState_busy (m : AesState) : (setState m s).busy = s.busy := rfl
@[simp] theorem setState_done (m : AesState) : (setState m s).done = s.done := rfl
@[simp] theorem setState_err (m : AesState) : (setState m s).err = s.err := rfl
@[simp] theorem setState_rcon (m : AesState) : (setState m s).rcon = s.rcon := rfl
@[simp] theorem setState_round (m : AesState) : (setState m s).round = s.round := rfl
@[simp] theorem setState_mic (m : AesState) : (setState m s).mic = s.mic := rfl
@[simp] theorem setState_block (m : AesState) : (setState m s).block = s.block := rfl
@[simp] theorem setState_buf (m : AesState) : (setState m s).buf = s.buf := rfl
@[simp] theorem setState_state (m : AesState) : (setState m s).state = m := rfl
@[simp] theorem setState_rk (m : AesState) : (setState m s).rk = s.rk := rfl
@[simp] theorem setState_k1 (m : AesState) : (setState m s).k1 = s.k1 := rfl
@[simp] theorem setState_k2 (m : AesState) : (setState m s).k2 = s.k2 := rfl
@[simp] theorem setState_chain (m : AesState) : (setState m s).chain = s.chain := rfl
@[simp] theorem setState_program (m : AesState) : (setState m s).program = s.program := rfl
@[simp] theorem setState_schedule (m : AesState) : (setState m s).schedule = s.schedule := rfl
@[simp] theorem setState_reads (m : AesState) : (setState m s).reads = s.reads := rfl
@[simp] theorem setState_returned (m : AesState) : (setState m s).returned = s.returned := rfl
@[simp] theorem setState_draws (m : AesState) : (setState m s).draws = s.draws := rfl

@[simp] theorem setBlock_keyApp (b : Block) : (setBlock b s).keyApp = s.keyApp := rfl
@[simp] theorem setBlock_keyNwk (b : Block) : (setBlock b s).keyNwk = s.keyNwk := rfl
@[simp] theorem setBlock_devAddr (b : Block) : (setBlock b s).devAddr = s.devAddr := rfl
@[simp] theorem setBlock_fcntLo (b : Block) : (setBlock b s).fcntLo = s.fcntLo := rfl
@[simp] theorem setBlock_fcntHi (b : Block) : (setBlock b s).fcntHi = s.fcntHi := rfl
@[simp] theorem setBlock_len (b : Block) : (setBlock b s).len = s.len := rfl
@[simp] theorem setBlock_cmd (b : Block) : (setBlock b s).cmd = s.cmd := rfl
@[simp] theorem setBlock_busy (b : Block) : (setBlock b s).busy = s.busy := rfl
@[simp] theorem setBlock_done (b : Block) : (setBlock b s).done = s.done := rfl
@[simp] theorem setBlock_err (b : Block) : (setBlock b s).err = s.err := rfl
@[simp] theorem setBlock_rcon (b : Block) : (setBlock b s).rcon = s.rcon := rfl
@[simp] theorem setBlock_round (b : Block) : (setBlock b s).round = s.round := rfl
@[simp] theorem setBlock_mic (b : Block) : (setBlock b s).mic = s.mic := rfl
@[simp] theorem setBlock_block (b : Block) : (setBlock b s).block = b := rfl
@[simp] theorem setBlock_buf (b : Block) : (setBlock b s).buf = s.buf := rfl
@[simp] theorem setBlock_state (b : Block) : (setBlock b s).state = s.state := rfl
@[simp] theorem setBlock_rk (b : Block) : (setBlock b s).rk = s.rk := rfl
@[simp] theorem setBlock_k1 (b : Block) : (setBlock b s).k1 = s.k1 := rfl
@[simp] theorem setBlock_k2 (b : Block) : (setBlock b s).k2 = s.k2 := rfl
@[simp] theorem setBlock_chain (b : Block) : (setBlock b s).chain = s.chain := rfl
@[simp] theorem setBlock_program (b : Block) : (setBlock b s).program = s.program := rfl
@[simp] theorem setBlock_schedule (b : Block) : (setBlock b s).schedule = s.schedule := rfl
@[simp] theorem setBlock_reads (b : Block) : (setBlock b s).reads = s.reads := rfl
@[simp] theorem setBlock_returned (b : Block) : (setBlock b s).returned = s.returned := rfl
@[simp] theorem setBlock_draws (b : Block) : (setBlock b s).draws = s.draws := rfl

@[simp] theorem setKey_keyApp (k : Block) (c : Byte) (n : BitVec 4) : (setKey k c n s).keyApp = s.keyApp := rfl
@[simp] theorem setKey_keyNwk (k : Block) (c : Byte) (n : BitVec 4) : (setKey k c n s).keyNwk = s.keyNwk := rfl
@[simp] theorem setKey_devAddr (k : Block) (c : Byte) (n : BitVec 4) : (setKey k c n s).devAddr = s.devAddr := rfl
@[simp] theorem setKey_fcntLo (k : Block) (c : Byte) (n : BitVec 4) : (setKey k c n s).fcntLo = s.fcntLo := rfl
@[simp] theorem setKey_fcntHi (k : Block) (c : Byte) (n : BitVec 4) : (setKey k c n s).fcntHi = s.fcntHi := rfl
@[simp] theorem setKey_len (k : Block) (c : Byte) (n : BitVec 4) : (setKey k c n s).len = s.len := rfl
@[simp] theorem setKey_cmd (k : Block) (c : Byte) (n : BitVec 4) : (setKey k c n s).cmd = s.cmd := rfl
@[simp] theorem setKey_busy (k : Block) (c : Byte) (n : BitVec 4) : (setKey k c n s).busy = s.busy := rfl
@[simp] theorem setKey_done (k : Block) (c : Byte) (n : BitVec 4) : (setKey k c n s).done = s.done := rfl
@[simp] theorem setKey_err (k : Block) (c : Byte) (n : BitVec 4) : (setKey k c n s).err = s.err := rfl
@[simp] theorem setKey_rcon (k : Block) (c : Byte) (n : BitVec 4) : (setKey k c n s).rcon = c := rfl
@[simp] theorem setKey_round (k : Block) (c : Byte) (n : BitVec 4) : (setKey k c n s).round = n := rfl
@[simp] theorem setKey_mic (k : Block) (c : Byte) (n : BitVec 4) : (setKey k c n s).mic = s.mic := rfl
@[simp] theorem setKey_block (k : Block) (c : Byte) (n : BitVec 4) : (setKey k c n s).block = s.block := rfl
@[simp] theorem setKey_buf (k : Block) (c : Byte) (n : BitVec 4) : (setKey k c n s).buf = s.buf := rfl
@[simp] theorem setKey_state (k : Block) (c : Byte) (n : BitVec 4) : (setKey k c n s).state = s.state := rfl
@[simp] theorem setKey_rk (k : Block) (c : Byte) (n : BitVec 4) : (setKey k c n s).rk = k := rfl
@[simp] theorem setKey_k1 (k : Block) (c : Byte) (n : BitVec 4) : (setKey k c n s).k1 = s.k1 := rfl
@[simp] theorem setKey_k2 (k : Block) (c : Byte) (n : BitVec 4) : (setKey k c n s).k2 = s.k2 := rfl
@[simp] theorem setKey_chain (k : Block) (c : Byte) (n : BitVec 4) : (setKey k c n s).chain = s.chain := rfl
@[simp] theorem setKey_program (k : Block) (c : Byte) (n : BitVec 4) : (setKey k c n s).program = s.program := rfl
@[simp] theorem setKey_schedule (k : Block) (c : Byte) (n : BitVec 4) : (setKey k c n s).schedule = s.schedule := rfl
@[simp] theorem setKey_reads (k : Block) (c : Byte) (n : BitVec 4) : (setKey k c n s).reads = s.reads := rfl
@[simp] theorem setKey_returned (k : Block) (c : Byte) (n : BitVec 4) : (setKey k c n s).returned = s.returned := rfl
@[simp] theorem setKey_draws (k : Block) (c : Byte) (n : BitVec 4) : (setKey k c n s).draws = s.draws := rfl

@[simp] theorem setK1_keyApp (b : Block) : (setK1 b s).keyApp = s.keyApp := rfl
@[simp] theorem setK1_keyNwk (b : Block) : (setK1 b s).keyNwk = s.keyNwk := rfl
@[simp] theorem setK1_devAddr (b : Block) : (setK1 b s).devAddr = s.devAddr := rfl
@[simp] theorem setK1_fcntLo (b : Block) : (setK1 b s).fcntLo = s.fcntLo := rfl
@[simp] theorem setK1_fcntHi (b : Block) : (setK1 b s).fcntHi = s.fcntHi := rfl
@[simp] theorem setK1_len (b : Block) : (setK1 b s).len = s.len := rfl
@[simp] theorem setK1_cmd (b : Block) : (setK1 b s).cmd = s.cmd := rfl
@[simp] theorem setK1_busy (b : Block) : (setK1 b s).busy = s.busy := rfl
@[simp] theorem setK1_done (b : Block) : (setK1 b s).done = s.done := rfl
@[simp] theorem setK1_err (b : Block) : (setK1 b s).err = s.err := rfl
@[simp] theorem setK1_rcon (b : Block) : (setK1 b s).rcon = s.rcon := rfl
@[simp] theorem setK1_round (b : Block) : (setK1 b s).round = s.round := rfl
@[simp] theorem setK1_mic (b : Block) : (setK1 b s).mic = s.mic := rfl
@[simp] theorem setK1_block (b : Block) : (setK1 b s).block = s.block := rfl
@[simp] theorem setK1_buf (b : Block) : (setK1 b s).buf = s.buf := rfl
@[simp] theorem setK1_state (b : Block) : (setK1 b s).state = s.state := rfl
@[simp] theorem setK1_rk (b : Block) : (setK1 b s).rk = s.rk := rfl
@[simp] theorem setK1_k1 (b : Block) : (setK1 b s).k1 = b := rfl
@[simp] theorem setK1_k2 (b : Block) : (setK1 b s).k2 = s.k2 := rfl
@[simp] theorem setK1_chain (b : Block) : (setK1 b s).chain = s.chain := rfl
@[simp] theorem setK1_program (b : Block) : (setK1 b s).program = s.program := rfl
@[simp] theorem setK1_schedule (b : Block) : (setK1 b s).schedule = s.schedule := rfl
@[simp] theorem setK1_reads (b : Block) : (setK1 b s).reads = s.reads := rfl
@[simp] theorem setK1_returned (b : Block) : (setK1 b s).returned = s.returned := rfl
@[simp] theorem setK1_draws (b : Block) : (setK1 b s).draws = s.draws := rfl

@[simp] theorem setK2_keyApp (b : Block) : (setK2 b s).keyApp = s.keyApp := rfl
@[simp] theorem setK2_keyNwk (b : Block) : (setK2 b s).keyNwk = s.keyNwk := rfl
@[simp] theorem setK2_devAddr (b : Block) : (setK2 b s).devAddr = s.devAddr := rfl
@[simp] theorem setK2_fcntLo (b : Block) : (setK2 b s).fcntLo = s.fcntLo := rfl
@[simp] theorem setK2_fcntHi (b : Block) : (setK2 b s).fcntHi = s.fcntHi := rfl
@[simp] theorem setK2_len (b : Block) : (setK2 b s).len = s.len := rfl
@[simp] theorem setK2_cmd (b : Block) : (setK2 b s).cmd = s.cmd := rfl
@[simp] theorem setK2_busy (b : Block) : (setK2 b s).busy = s.busy := rfl
@[simp] theorem setK2_done (b : Block) : (setK2 b s).done = s.done := rfl
@[simp] theorem setK2_err (b : Block) : (setK2 b s).err = s.err := rfl
@[simp] theorem setK2_rcon (b : Block) : (setK2 b s).rcon = s.rcon := rfl
@[simp] theorem setK2_round (b : Block) : (setK2 b s).round = s.round := rfl
@[simp] theorem setK2_mic (b : Block) : (setK2 b s).mic = s.mic := rfl
@[simp] theorem setK2_block (b : Block) : (setK2 b s).block = s.block := rfl
@[simp] theorem setK2_buf (b : Block) : (setK2 b s).buf = s.buf := rfl
@[simp] theorem setK2_state (b : Block) : (setK2 b s).state = s.state := rfl
@[simp] theorem setK2_rk (b : Block) : (setK2 b s).rk = s.rk := rfl
@[simp] theorem setK2_k1 (b : Block) : (setK2 b s).k1 = s.k1 := rfl
@[simp] theorem setK2_k2 (b : Block) : (setK2 b s).k2 = b := rfl
@[simp] theorem setK2_chain (b : Block) : (setK2 b s).chain = s.chain := rfl
@[simp] theorem setK2_program (b : Block) : (setK2 b s).program = s.program := rfl
@[simp] theorem setK2_schedule (b : Block) : (setK2 b s).schedule = s.schedule := rfl
@[simp] theorem setK2_reads (b : Block) : (setK2 b s).reads = s.reads := rfl
@[simp] theorem setK2_returned (b : Block) : (setK2 b s).returned = s.returned := rfl
@[simp] theorem setK2_draws (b : Block) : (setK2 b s).draws = s.draws := rfl

@[simp] theorem setChain_keyApp (b : Block) : (setChain b s).keyApp = s.keyApp := rfl
@[simp] theorem setChain_keyNwk (b : Block) : (setChain b s).keyNwk = s.keyNwk := rfl
@[simp] theorem setChain_devAddr (b : Block) : (setChain b s).devAddr = s.devAddr := rfl
@[simp] theorem setChain_fcntLo (b : Block) : (setChain b s).fcntLo = s.fcntLo := rfl
@[simp] theorem setChain_fcntHi (b : Block) : (setChain b s).fcntHi = s.fcntHi := rfl
@[simp] theorem setChain_len (b : Block) : (setChain b s).len = s.len := rfl
@[simp] theorem setChain_cmd (b : Block) : (setChain b s).cmd = s.cmd := rfl
@[simp] theorem setChain_busy (b : Block) : (setChain b s).busy = s.busy := rfl
@[simp] theorem setChain_done (b : Block) : (setChain b s).done = s.done := rfl
@[simp] theorem setChain_err (b : Block) : (setChain b s).err = s.err := rfl
@[simp] theorem setChain_rcon (b : Block) : (setChain b s).rcon = s.rcon := rfl
@[simp] theorem setChain_round (b : Block) : (setChain b s).round = s.round := rfl
@[simp] theorem setChain_mic (b : Block) : (setChain b s).mic = s.mic := rfl
@[simp] theorem setChain_block (b : Block) : (setChain b s).block = s.block := rfl
@[simp] theorem setChain_buf (b : Block) : (setChain b s).buf = s.buf := rfl
@[simp] theorem setChain_state (b : Block) : (setChain b s).state = s.state := rfl
@[simp] theorem setChain_rk (b : Block) : (setChain b s).rk = s.rk := rfl
@[simp] theorem setChain_k1 (b : Block) : (setChain b s).k1 = s.k1 := rfl
@[simp] theorem setChain_k2 (b : Block) : (setChain b s).k2 = s.k2 := rfl
@[simp] theorem setChain_chain (b : Block) : (setChain b s).chain = b := rfl
@[simp] theorem setChain_program (b : Block) : (setChain b s).program = s.program := rfl
@[simp] theorem setChain_schedule (b : Block) : (setChain b s).schedule = s.schedule := rfl
@[simp] theorem setChain_reads (b : Block) : (setChain b s).reads = s.reads := rfl
@[simp] theorem setChain_returned (b : Block) : (setChain b s).returned = s.returned := rfl
@[simp] theorem setChain_draws (b : Block) : (setChain b s).draws = s.draws := rfl

@[simp] theorem setMic_keyApp (q : Quad) : (setMic q s).keyApp = s.keyApp := rfl
@[simp] theorem setMic_keyNwk (q : Quad) : (setMic q s).keyNwk = s.keyNwk := rfl
@[simp] theorem setMic_devAddr (q : Quad) : (setMic q s).devAddr = s.devAddr := rfl
@[simp] theorem setMic_fcntLo (q : Quad) : (setMic q s).fcntLo = s.fcntLo := rfl
@[simp] theorem setMic_fcntHi (q : Quad) : (setMic q s).fcntHi = s.fcntHi := rfl
@[simp] theorem setMic_len (q : Quad) : (setMic q s).len = s.len := rfl
@[simp] theorem setMic_cmd (q : Quad) : (setMic q s).cmd = s.cmd := rfl
@[simp] theorem setMic_busy (q : Quad) : (setMic q s).busy = s.busy := rfl
@[simp] theorem setMic_done (q : Quad) : (setMic q s).done = s.done := rfl
@[simp] theorem setMic_err (q : Quad) : (setMic q s).err = s.err := rfl
@[simp] theorem setMic_rcon (q : Quad) : (setMic q s).rcon = s.rcon := rfl
@[simp] theorem setMic_round (q : Quad) : (setMic q s).round = s.round := rfl
@[simp] theorem setMic_mic (q : Quad) : (setMic q s).mic = q := rfl
@[simp] theorem setMic_block (q : Quad) : (setMic q s).block = s.block := rfl
@[simp] theorem setMic_buf (q : Quad) : (setMic q s).buf = s.buf := rfl
@[simp] theorem setMic_state (q : Quad) : (setMic q s).state = s.state := rfl
@[simp] theorem setMic_rk (q : Quad) : (setMic q s).rk = s.rk := rfl
@[simp] theorem setMic_k1 (q : Quad) : (setMic q s).k1 = s.k1 := rfl
@[simp] theorem setMic_k2 (q : Quad) : (setMic q s).k2 = s.k2 := rfl
@[simp] theorem setMic_chain (q : Quad) : (setMic q s).chain = s.chain := rfl
@[simp] theorem setMic_program (q : Quad) : (setMic q s).program = s.program := rfl
@[simp] theorem setMic_schedule (q : Quad) : (setMic q s).schedule = s.schedule := rfl
@[simp] theorem setMic_reads (q : Quad) : (setMic q s).reads = s.reads := rfl
@[simp] theorem setMic_returned (q : Quad) : (setMic q s).returned = s.returned := rfl
@[simp] theorem setMic_draws (q : Quad) : (setMic q s).draws = s.draws := rfl

@[simp] theorem setBuf_keyApp (b : Buffer) : (setBuf b s).keyApp = s.keyApp := rfl
@[simp] theorem setBuf_keyNwk (b : Buffer) : (setBuf b s).keyNwk = s.keyNwk := rfl
@[simp] theorem setBuf_devAddr (b : Buffer) : (setBuf b s).devAddr = s.devAddr := rfl
@[simp] theorem setBuf_fcntLo (b : Buffer) : (setBuf b s).fcntLo = s.fcntLo := rfl
@[simp] theorem setBuf_fcntHi (b : Buffer) : (setBuf b s).fcntHi = s.fcntHi := rfl
@[simp] theorem setBuf_len (b : Buffer) : (setBuf b s).len = s.len := rfl
@[simp] theorem setBuf_cmd (b : Buffer) : (setBuf b s).cmd = s.cmd := rfl
@[simp] theorem setBuf_busy (b : Buffer) : (setBuf b s).busy = s.busy := rfl
@[simp] theorem setBuf_done (b : Buffer) : (setBuf b s).done = s.done := rfl
@[simp] theorem setBuf_err (b : Buffer) : (setBuf b s).err = s.err := rfl
@[simp] theorem setBuf_rcon (b : Buffer) : (setBuf b s).rcon = s.rcon := rfl
@[simp] theorem setBuf_round (b : Buffer) : (setBuf b s).round = s.round := rfl
@[simp] theorem setBuf_mic (b : Buffer) : (setBuf b s).mic = s.mic := rfl
@[simp] theorem setBuf_block (b : Buffer) : (setBuf b s).block = s.block := rfl
@[simp] theorem setBuf_buf (b : Buffer) : (setBuf b s).buf = b := rfl
@[simp] theorem setBuf_state (b : Buffer) : (setBuf b s).state = s.state := rfl
@[simp] theorem setBuf_rk (b : Buffer) : (setBuf b s).rk = s.rk := rfl
@[simp] theorem setBuf_k1 (b : Buffer) : (setBuf b s).k1 = s.k1 := rfl
@[simp] theorem setBuf_k2 (b : Buffer) : (setBuf b s).k2 = s.k2 := rfl
@[simp] theorem setBuf_chain (b : Buffer) : (setBuf b s).chain = s.chain := rfl
@[simp] theorem setBuf_program (b : Buffer) : (setBuf b s).program = s.program := rfl
@[simp] theorem setBuf_schedule (b : Buffer) : (setBuf b s).schedule = s.schedule := rfl
@[simp] theorem setBuf_reads (b : Buffer) : (setBuf b s).reads = s.reads := rfl
@[simp] theorem setBuf_returned (b : Buffer) : (setBuf b s).returned = s.returned := rfl
@[simp] theorem setBuf_draws (b : Buffer) : (setBuf b s).draws = s.draws := rfl

end Sys2Proof.Machine
end

