-- ==== Sys2Proof/Laws/Encrypt.lean ====
section
/-! SUPPORT. AES_RUN in closed form: what it leaves is a function of the key and the block alone (41_aes_encrypt.md R132). -/

namespace Sys2Proof.Machine

/-- RK and RCON after `n` key steps from a key just loaded (R108, R110). -/
def keyAfter (key : Block) : Nat → Block × Byte
  | 0 => (key, 0x01)
  | n + 1 => (nextRoundKey (keyAfter key n).1 (keyAfter key n).2, xtime (keyAfter key n).2)

/-- STATE after `n` full rounds (R130). -/
def stateAfter (key : Block) (m : AesState) : Nat → AesState
  | 0 => m
  | n + 1 => addRoundKey (keyAfter key (n + 1)).1 (mixColumns (shiftRows (subBytes (stateAfter key m n))))

/-- STATE before the first round (R130). -/
def firstState (ark : Bool) (key b : Block) : AesState :=
  if ark then addRoundKey key (blockToState b) else blockToState b

/-- Round key 10 (R113, R132). -/
@[irreducible] def lastKey (key : Block) : Block := (keyAfter key 10).1

/-- STATE after AES_RUN (R130). -/
@[irreducible] def cipherState (ark : Bool) (key b : Block) : AesState :=
  addRoundKey (lastKey key) (shiftRows (subBytes (stateAfter key (firstState ark key b) 9)))

/-- BLOCK after AES_RUN: the encryption of a block under a key. -/
def cipherBlock (ark : Bool) (key b : Block) : Block := stateToBlock (cipherState ark key b)

/-- What AES_RUN leaves in the registers it writes. -/
def encrypted (ark : Bool) (key b : Block) (s : State) : State :=
  setBlock (cipherBlock ark key b)
    (setState (cipherState ark key b) (setKey (lastKey key) 0x6C 10 s))

theorem keyAfter_succ (key : Block) (n : Nat) :
    keyAfter key (n + 1) = (nextRoundKey (keyAfter key n).1 (keyAfter key n).2, xtime (keyAfter key n).2) := rfl

theorem rcon_after_ten (key : Block) : (keyAfter key 10).2 = 0x6C := by
  have h : xtime (xtime (xtime (xtime (xtime (xtime (xtime (xtime (xtime (xtime 0x01))))))))) = 0x6C := by decide
  simpa [keyAfter] using h

/-- A full round added at the end of `n` full rounds. -/
theorem fullRounds_succ (n : Nat) (s : State) : fullRounds (n + 1) s = fullRound (fullRounds n s) := by
  induction n generalizing s with
  | zero => rfl
  | succ n ih => exact ih (fullRound s)

/-- One full round, register by register (R130). -/
theorem fullRound_eq (m : AesState) (k : Block) (c : Byte) (r : BitVec 4) (s : State) :
    fullRound (setState m (setKey k c r s)) =
      setState (addRoundKey (nextRoundKey k c) (mixColumns (shiftRows (subBytes m))))
        (setKey (nextRoundKey k c) (xtime c) (r + 1) s) := by
  simp only [fullRound, addRoundKeyOp, keyStep, mixColumnsOp, shiftRowsOp, subBytesOp, setState, setKey]

/-- The final round and the store, register by register (R130). -/
theorem finalRound_eq (m : AesState) (k : Block) (c : Byte) (r : BitVec 4) (s : State) :
    stState (finalRound (setState m (setKey k c r s))) =
      setBlock (stateToBlock (addRoundKey (nextRoundKey k c) (shiftRows (subBytes m))))
        (setState (addRoundKey (nextRoundKey k c) (shiftRows (subBytes m)))
          (setKey (nextRoundKey k c) (xtime c) (r + 1) s)) := by
  simp only [stState, finalRound, addRoundKeyOp, keyStep, shiftRowsOp, subBytesOp, setBlock, setState, setKey]

/-- The registers after `n` full rounds from a key just loaded. -/
theorem fullRounds_eq (key : Block) (m : AesState) (s : State) (n : Nat) :
    fullRounds n (setState m (setKey key 0x01 0 s)) =
      setState (stateAfter key m n) (setKey (keyAfter key n).1 (keyAfter key n).2 (BitVec.ofNat 4 n) s) := by
  induction n with
  | zero => rfl
  | succ n ih => rw [fullRounds_succ, ih, fullRound_eq, stateAfter, keyAfter_succ, BitVec.ofNat_add]; rfl

/-- AES_RUN, once and for all: the registers it writes, as functions of the selected key and BLOCK; every other
register keeps its value (R132). -/
theorem aesRun_eq (ark : Bool) (k : KeySel) (s : State) : aesRun ark k s = encrypted ark (keyReg k s) s.block s := by
  have h0 : initialKeyAddition ark (ldKey k (ldState s)) =
      setState (firstState ark (keyReg k s) s.block) (setKey (keyReg k s) 0x01 0 s) := by
    cases ark <;> cases k <;> rfl
  have h10 : BitVec.ofNat 4 9 + 1 = (10 : BitVec 4) := by decide
  rw [aesRun, h0, fullRounds_eq, finalRound_eq, h10, encrypted, cipherBlock, cipherState, lastKey, ← rcon_after_ten (keyReg k s),
    keyAfter_succ _ 9]

/-- Encrypting leaves the same registers behind whatever BLOCK, STATE, RK, RCON and ROUND held (R132). -/
theorem encrypted_setBlock (ark : Bool) (key b c : Block) (s : State) :
    encrypted ark key b (setBlock c s) = encrypted ark key b s := by
  simp only [encrypted, setBlock, setState, setKey]

theorem encrypted_encrypted (ark : Bool) (key b key' b' : Block) (s : State) :
    encrypted ark key b (encrypted ark key' b' s) = encrypted ark key b s := by
  simp only [encrypted, setBlock, setState, setKey]

@[simp] theorem encrypted_block (ark : Bool) (key b : Block) (s : State) :
    (encrypted ark key b s).block = cipherBlock ark key b := rfl
@[simp] theorem encrypted_state (ark : Bool) (key b : Block) (s : State) :
    (encrypted ark key b s).state = cipherState ark key b := rfl
@[simp] theorem encrypted_rk (ark : Bool) (key b : Block) (s : State) :
    (encrypted ark key b s).rk = lastKey key := rfl
@[simp] theorem encrypted_keyApp (ark : Bool) (key b : Block) (s : State) :
    (encrypted ark key b s).keyApp = s.keyApp := rfl
@[simp] theorem encrypted_keyNwk (ark : Bool) (key b : Block) (s : State) :
    (encrypted ark key b s).keyNwk = s.keyNwk := rfl
@[simp] theorem encrypted_devAddr (ark : Bool) (key b : Block) (s : State) :
    (encrypted ark key b s).devAddr = s.devAddr := rfl
@[simp] theorem encrypted_fcntLo (ark : Bool) (key b : Block) (s : State) :
    (encrypted ark key b s).fcntLo = s.fcntLo := rfl
@[simp] theorem encrypted_fcntHi (ark : Bool) (key b : Block) (s : State) :
    (encrypted ark key b s).fcntHi = s.fcntHi := rfl
@[simp] theorem encrypted_len (ark : Bool) (key b : Block) (s : State) : (encrypted ark key b s).len = s.len := rfl
@[simp] theorem encrypted_buf (ark : Bool) (key b : Block) (s : State) : (encrypted ark key b s).buf = s.buf := rfl
@[simp] theorem encrypted_k1 (ark : Bool) (key b : Block) (s : State) : (encrypted ark key b s).k1 = s.k1 := rfl
@[simp] theorem encrypted_k2 (ark : Bool) (key b : Block) (s : State) : (encrypted ark key b s).k2 = s.k2 := rfl
@[simp] theorem encrypted_chain (ark : Bool) (key b : Block) (s : State) :
    (encrypted ark key b s).chain = s.chain := rfl

end Sys2Proof.Machine
end

