-- ==== Sys2Proof/Laws/Mic.lean ====
section
/-! SUPPORT. DBL and MIC in closed form (43_mic_generator.md R150 to R154). -/

namespace Sys2Proof.Machine

/-- The encrypted zero block `L` (R151). -/
def micL (ark : Bool) (s : State) : Block := cipherBlock ark s.keyNwk zeroBlock

/-- The chain value after the header block and `n` message blocks (R154). -/
def chainAfter (ark : Bool) (s : State) : Nat → Block
  | 0 => cipherBlock ark s.keyNwk (headerBlock s)
  | n + 1 => cipherBlock ark s.keyNwk (xorBlock (messageBlock (n + 1) s) (chainAfter ark s n))

/-- The input of the last encryption, from the subkeys and the chain value (R154). -/
def lastInputOf (k1 k2 chain : Block) (s : State) : Block :=
  if s.len.toNat % 16 = 0 then xorBlock (xorBlock (messageBlock (blockCount s) s) k1) chain
  else xorBlock (xorBlock (paddedBlock (blockCount s) (s.len.toNat % 16) s) k2) chain

/-- The full 16-byte tag (R154). -/
def micTag (ark : Bool) (s : State) : Block :=
  cipherBlock ark s.keyNwk
    (lastInputOf (dblBlock (micL ark s)) (dblBlock (dblBlock (micL ark s))) (chainAfter ark s (blockCount s - 1)) s)

/-- Encrypting a block under the network key, register by register. -/
theorem aesRun_nwk (ark : Bool) (b : Block) (s : State) :
    aesRun ark .nwk (setBlock b s) = encrypted ark s.keyNwk b s := by
  rw [aesRun_eq, setBlock_block, encrypted_setBlock]
  rfl

/-- The subkeys, register by register (R151). -/
theorem micSubkeys_eq (ark : Bool) (s : State) : micSubkeys ark s =
    setBlock (dblBlock (dblBlock (micL ark s))) (setK2 (dblBlock (dblBlock (micL ark s)))
      (setK1 (dblBlock (micL ark s)) (encrypted ark s.keyNwk zeroBlock s))) := by
  rw [micSubkeys, aesRun_nwk]
  simp only [doubleBlock, saveK1, saveK2, setBlock_block, setK1_block, encrypted_block, micL]
  simp only [setBlock, setK1, setK2]

/-- A state of the MIC computation: the subkeys and a chain value saved, after some encryption. -/
def micState (ark : Bool) (x chain : Block) (s : State) : State :=
  setChain chain (setK2 (dblBlock (dblBlock (micL ark s))) (setK1 (dblBlock (micL ark s))
    (encrypted ark s.keyNwk x s)))

theorem micState_keyNwk (ark : Bool) (x c : Block) (s : State) : (micState ark x c s).keyNwk = s.keyNwk := by
  simp [micState]

/-- Reading the message, the length and the session registers in such a state. -/
theorem messageBlock_micState (ark : Bool) (x c : Block) (s : State) (n : Nat) :
    messageBlock n (micState ark x c s) = messageBlock n s := by
  simp [messageBlock, bufByte, micState]

/-- What is encrypted last, in such a state. -/
theorem lastInput_micState (ark : Bool) (x c : Block) (s : State) :
    lastInput (micState ark x c s) = lastInputOf (dblBlock (micL ark s)) (dblBlock (dblBlock (micL ark s))) c s := by
  have hl : (micState ark x c s).len = s.len := by simp [micState]
  have h1 : (micState ark x c s).k1 = dblBlock (micL ark s) := by simp [micState]
  have h2 : (micState ark x c s).k2 = dblBlock (dblBlock (micL ark s)) := by simp [micState]
  have hc : (micState ark x c s).chain = c := by simp [micState]
  have hn : blockCount (micState ark x c s) = blockCount s := by rw [blockCount, blockCount, hl]
  have hp (n r : Nat) : paddedBlock n r (micState ark x c s) = paddedBlock n r s := by
    simp [paddedBlock, bufByte, micState]
  rw [lastInput, lastInputOf, hl, h1, h2, hc, hn]
  simp only [messageBlock_micState, hp]

/-- The registers after the header block and `n` message blocks. -/
theorem micBlocks_eq (ark : Bool) (n : Nat) (s : State) :
    ∃ x, micBlocks ark n (micHeader ark (micSubkeys ark s)) = micState ark x (chainAfter ark s n) s := by
  induction n with
  | zero =>
    have hk : (micSubkeys ark s).keyNwk = s.keyNwk := by simp [micSubkeys_eq]
    have hb : headerBlock (micSubkeys ark s) = headerBlock s := by simp [headerBlock, sessionBlock, micSubkeys_eq]
    refine ⟨headerBlock s, ?_⟩
    rw [micBlocks, micHeader, aesRun_nwk, saveChain, encrypted_block, hk, hb, micSubkeys_eq, chainAfter]
    simp only [encrypted, micState, setBlock, setK1, setK2, setChain, setState, setKey]
  | succ n ih =>
    obtain ⟨x, hx⟩ := ih
    have hc : (micState ark x (chainAfter ark s n) s).chain = chainAfter ark s n := by simp [micState]
    refine ⟨xorBlock (messageBlock (n + 1) s) (chainAfter ark s n), ?_⟩
    rw [micBlocks, hx, micBlock, aesRun_nwk, saveChain, encrypted_block, micState_keyNwk, messageBlock_micState, hc,
      chainAfter]
    simp only [encrypted, micState, setBlock, setK1, setK2, setChain, setState, setKey]

/-- The truncation, once the last encrypted block is known (R53). -/
theorem saveMic_eq (b : Block) (s : State) (h : s.block = b) : saveMic s = setMic #v[b[0], b[1], b[2], b[3]] s := by
  subst h
  rfl

/-- MIC, once and for all (R154). -/
theorem micRun_eq (ark : Bool) (s : State) : micRun ark s =
    setMic #v[(micTag ark s)[0], (micTag ark s)[1], (micTag ark s)[2], (micTag ark s)[3]]
      (micState ark (lastInputOf (dblBlock (micL ark s)) (dblBlock (dblBlock (micL ark s)))
        (chainAfter ark s (blockCount s - 1)) s) (chainAfter ark s (blockCount s - 1)) s) := by
  obtain ⟨x, hx⟩ := micBlocks_eq ark (blockCount s - 1) s
  have ht : micTag ark s = cipherBlock ark s.keyNwk (lastInputOf (dblBlock (micL ark s))
      (dblBlock (dblBlock (micL ark s))) (chainAfter ark s (blockCount s - 1)) s) := by rw [micTag]
  rw [micRun, hx, micFinal, aesRun_nwk, micState_keyNwk, lastInput_micState,
    saveMic_eq (micTag ark s) _ (by rw [encrypted_block, ht])]
  simp only [encrypted, micState, setBlock, setK1, setK2, setChain, setState, setKey, setMic]

end Sys2Proof.Machine
end

