-- ==== Sys2Proof/Laws/Ops.lean ====
section
/-! SUPPORT. The cases of the host's read and write, one lemma per case (20_memory.md R56 to R63), and what a store at a
location leaves alone. -/

namespace Sys2Proof.Machine

variable (s : State)

theorem hostRead_status : hostRead statusAddr s = statusByte s := by simp [hostRead]

theorem hostRead_idle (a : Addr) (ha : a ≠ statusAddr) (h : s.busy = false) : hostRead a s = readLoc s (locOf a) := by
  simp [hostRead, ha, h]

theorem hostWrite_status (v : Byte) : hostWrite statusAddr v s = acknowledge v s := by simp [hostWrite]

theorem hostWrite_busy (a : Addr) (v : Byte) (ha : a ≠ statusAddr) (h : s.busy = true) :
    hostWrite a v s = raiseError .busyAccess s := by simp [hostWrite, ha, h]

theorem hostWrite_cmd (v : Byte) (h : s.busy = false) : hostWrite cmdAddr v s = writeCommand v s := by
  simp [hostWrite, h, cmdAddr, statusAddr]

theorem hostWrite_data (a : Addr) (v : Byte) (ha : a ≠ statusAddr) (hc : a ≠ cmdAddr) (h : s.busy = false) :
    hostWrite a v s = storeLoc s v (locOf a) := by simp [hostWrite, ha, hc, h]

/-- The four outcomes of a write to CMD (R60), and when each happens. -/
theorem writeCommand_cases (v : Byte) :
    (s.err ≠ .none ∧ writeCommand v s = s) ∨
    (s.err = .none ∧ (∃ e, decodeCommand v = .error e) ∧ writeCommand v s = raiseError .illegalCmd s) ∨
    (s.err = .none ∧ (∃ i, decodeCommand v = .ok i ∧ lenAccepted i s.len = false) ∧
      writeCommand v s = raiseError .lenRange s) ∨
    (s.err = .none ∧ (∃ i, decodeCommand v = .ok i ∧ lenAccepted i s.len = true) ∧ writeCommand v s = accept v s) := by
  by_cases he : s.err = .none
  · cases hd : decodeCommand v with
    | error e => exact .inr (.inl ⟨he, ⟨e, rfl⟩, by simp [writeCommand, he, hd]⟩)
    | ok i =>
      cases hl : lenAccepted i s.len with
      | false => exact .inr (.inr (.inl ⟨he, ⟨i, rfl, hl⟩, by simp [writeCommand, he, hd, hl]⟩))
      | true => exact .inr (.inr (.inr ⟨he, ⟨i, rfl, hl⟩, by simp [writeCommand, he, hd, hl]⟩))
  · exact .inl ⟨he, by simp [writeCommand, he]⟩

/-- What a host write can do: five cases, with their conditions (R57). -/
theorem hostWrite_cases (a : Addr) (v : Byte) :
    (a = statusAddr ∧ hostWrite a v s = acknowledge v s) ∨
    (a ≠ statusAddr ∧ s.busy = true ∧ hostWrite a v s = raiseError .busyAccess s) ∨
    (a = cmdAddr ∧ s.busy = false ∧ hostWrite a v s = writeCommand v s) ∨
    (a ≠ statusAddr ∧ a ≠ cmdAddr ∧ s.busy = false ∧ hostWrite a v s = storeLoc s v (locOf a)) := by
  by_cases ha : a = statusAddr
  · exact .inl ⟨ha, by rw [ha, hostWrite_status]⟩
  · cases hb : s.busy with
    | true => exact .inr (.inl ⟨ha, rfl, hostWrite_busy s a v ha hb⟩)
    | false =>
      by_cases hc : a = cmdAddr
      · exact .inr (.inr (.inl ⟨hc, rfl, by rw [hc, hostWrite_cmd s v hb]⟩))
      · exact .inr (.inr (.inr ⟨ha, hc, rfl, hostWrite_data s a v ha hc hb⟩))

/-- A store at a location touches only the registers the host may write (R57): all others keep their values. -/
theorem storeLoc_frame (v : Byte) (l : Loc) :
    storeLoc s v l = { s with
      keyApp := (storeLoc s v l).keyApp
      keyNwk := (storeLoc s v l).keyNwk
      devAddr := (storeLoc s v l).devAddr
      fcntLo := (storeLoc s v l).fcntLo
      fcntHi := (storeLoc s v l).fcntHi
      len := (storeLoc s v l).len
      block := (storeLoc s v l).block
      buf := (storeLoc s v l).buf } := by
  cases l <;> rfl

/-- A legal command is a command byte's own instruction, never a transaction (R85). -/
theorem decodeCommand_format (v : Byte) (i : Instr) (h : decodeCommand v = .ok i) : i.format = .cmd := by
  have hall : ∀ v : Byte, (match decodeCommand v with | .ok i => i.format == .cmd | .error _ => true) = true := by
    decide
  have := hall v
  rw [h] at this
  simpa using this

end Sys2Proof.Machine
end

