-- ==== Sys2Proof/Laws/Payload.lean ====
section
/-! SUPPORT. PAYLOAD in closed form (42_payload_cipher.md R142). -/

namespace Sys2Proof.Machine

/-- Keystream block `i` (R140, R141). -/
def keystreamBlock (ark : Bool) (i : Nat) (s : State) : Block := cipherBlock ark s.keyApp (counterBlock i s)

/-- BUF after the first `n` blocks of PAYLOAD (R142). -/
def bufAfter (ark : Bool) (n : Nat) (s : State) : Buffer :=
  Vector.ofFn fun k =>
    if k.val / 16 < n ∧ k.val < s.len.toNat then
      s.buf[k] ^^^ (keystreamBlock ark (k.val / 16 + 1) s)[k.val % 16]'(Nat.mod_lt _ (by decide))
    else s.buf[k]

theorem bufAfter_zero (ark : Bool) (s : State) : bufAfter ark 0 s = s.buf := by
  apply Vector.ext
  intro k hk
  simp [bufAfter]

/-- One block added to BUF. -/
theorem bufAfter_succ (ark : Bool) (n : Nat) (s : State) :
    (Vector.ofFn fun k : Fin 64 =>
      if k.val / 16 + 1 = n + 1 ∧ k.val < s.len.toNat then
        (bufAfter ark n s)[k] ^^^ (keystreamBlock ark (n + 1) s)[k.val % 16]'(Nat.mod_lt _ (by decide))
      else (bufAfter ark n s)[k]) = bufAfter ark (n + 1) s := by
  apply Vector.ext
  intro k hk
  simp only [bufAfter, Vector.getElem_ofFn, Fin.getElem_fin]
  by_cases h1 : k / 16 = n
  · subst h1
    by_cases h2 : k < s.len.toNat <;> simp [h2]
  · by_cases h3 : k / 16 < n
    · have h4 : k / 16 < n + 1 := by omega
      simp [h1, h3, h4]
    · have h4 : ¬k / 16 < n + 1 := by omega
      simp [h1, h3, h4]

/-- The registers after the first `n` blocks of PAYLOAD; with no block, nothing has changed. -/
def payloadAfter (ark : Bool) (s : State) : Nat → State
  | 0 => s
  | n + 1 => setBuf (bufAfter ark (n + 1) s) (encrypted ark s.keyApp (counterBlock (n + 1) s) s)

/-- Encrypting a block under the application key, register by register. -/
theorem aesRun_app (ark : Bool) (b : Block) (s : State) :
    aesRun ark .app (setBlock b s) = encrypted ark s.keyApp b s := by
  rw [aesRun_eq, setBlock_block, encrypted_setBlock]
  rfl

/-- The inner loop, once the keystream block and BUF are known. -/
theorem xorSegment_eq (ark : Bool) (n : Nat) (s t : State) (hl : t.len = s.len)
    (hb : t.block = keystreamBlock ark (n + 1) s) (hf : t.buf = bufAfter ark n s) :
    xorSegment (n + 1) t = setBuf (bufAfter ark (n + 1) s) t := by
  rw [xorSegment, ← bufAfter_succ]
  simp only [hl, hb, hf]

theorem payloadAfter_keyApp (ark : Bool) (s : State) (n : Nat) : (payloadAfter ark s n).keyApp = s.keyApp := by
  cases n <;> simp [payloadAfter]

theorem payloadAfter_len (ark : Bool) (s : State) (n : Nat) : (payloadAfter ark s n).len = s.len := by
  cases n <;> simp [payloadAfter]

theorem payloadAfter_buf (ark : Bool) (s : State) (n : Nat) : (payloadAfter ark s n).buf = bufAfter ark n s := by
  cases n <;> simp [payloadAfter, bufAfter_zero]

theorem counterBlock_payloadAfter (ark : Bool) (s : State) (n i : Nat) :
    counterBlock i (payloadAfter ark s n) = counterBlock i s := by
  cases n <;> simp [payloadAfter, counterBlock, sessionBlock]

/-- PAYLOAD's loop, once and for all: BUF block by block, and what the last encryption leaves. -/
theorem payloadBlocks_eq (ark : Bool) (n : Nat) (s : State) : payloadBlocks ark n s = payloadAfter ark s n := by
  induction n with
  | zero => rfl
  | succ n ih =>
    rw [payloadBlocks, ih, payloadBlock, aesRun_app, payloadAfter_keyApp, counterBlock_payloadAfter,
      xorSegment_eq ark n s _ (by simp [payloadAfter_len]) (by simp [keystreamBlock]) (by simp [payloadAfter_buf])]
    cases n <;> simp only [payloadAfter, encrypted, setBlock, setState, setKey, setBuf]

/-- PAYLOAD, once and for all (R142). -/
theorem payloadRun_eq (ark : Bool) (s : State) : payloadRun ark s = payloadAfter ark s (blockCount s) :=
  payloadBlocks_eq ark (blockCount s) s

end Sys2Proof.Machine
end

