-- ==== Sys2Proof/Laws/Exec.lean ====
section
/-! SUPPORT. What exec can do: it always answers a next state; a command's is its effect with the end of the completion
step; an inversion lemma for each of the two transactions. -/

namespace Sys2Proof.Machine

/-- The effect of a command on the registers, without the end of the completion step; a transaction has none. -/
def commandEffect : Instr → State → State
  | .rd _ _ => id
  | .wr _ _ => id
  | .ldstate => ldState
  | .ststate => stState
  | .ldkey k => ldKey k
  | .strk => stRk
  | .subbytes => subBytesOp
  | .shiftrows => shiftRowsOp
  | .mixcolumns => mixColumnsOp
  | .keystep => keyStep
  | .addroundkey => addRoundKeyOp
  | .aesenc k => aesRun Config.initialArk k
  | .dbl => doubleBlock
  | .payload => payloadRun Config.initialArk
  | .mic => micRun Config.initialArk

/-- A command completes, in every state, with its effect (R62). -/
theorem exec_command (i : Instr) (s : State) (h : i.format = .cmd) :
    exec i s = .next (complete (commandEffect i s)) := by
  cases i <;> first | rfl | cases h

/-- Every instruction answers a next state, in every state. -/
theorem exec_answers_next (i : Instr) (s : State) : ∃ t, exec i s = .next t := by
  cases i <;> exact ⟨_, rfl⟩

/-- A read: the byte is returned and observed, the draw counter moves, nothing else changes (R56). -/
theorem exec_rd (a : Addr) (d : Byte) (s : State) : exec (.rd a d) s =
    .next { s with returned := hostRead a s, reads := hostRead a s :: s.reads, draws := s.draws + 1 } := rfl

/-- A write: the host write, then the byte in its slot (R57, R81). -/
theorem exec_wr (a : Addr) (v : Byte) (s : State) : exec (.wr a v) s =
    .next (endTransaction (Config.writeReturn s.draws a v (image s)) (hostWrite a v s)) := rfl

/-- What a command leaves alone: the session registers, CMD, STATUS.ERR and what is not the core's (R45). -/
theorem commandEffect_frame (i : Instr) (s : State) :
    commandEffect i s = { s with
      rcon := (commandEffect i s).rcon
      round := (commandEffect i s).round
      mic := (commandEffect i s).mic
      block := (commandEffect i s).block
      buf := (commandEffect i s).buf
      state := (commandEffect i s).state
      rk := (commandEffect i s).rk
      k1 := (commandEffect i s).k1
      k2 := (commandEffect i s).k2
      chain := (commandEffect i s).chain } := by
  cases i with
  | aesenc k =>
    simp only [commandEffect, aesRun_eq, encrypted, setBlock, setState, setKey]
  | payload =>
    simp only [commandEffect, payloadRun_eq]
    cases blockCount s <;> simp only [payloadAfter, encrypted, setBlock, setState, setKey, setBuf]
  | mic =>
    simp only [commandEffect, micRun_eq, micState, encrypted, setBlock, setState, setKey, setMic, setChain, setK1, setK2]
  | ldkey k => cases k <;> rfl
  | _ => rfl

end Sys2Proof.Machine
end

