-- ==== Sys2Proof/Laws/PerInstr.lean ====
section
/-! SUPPORT. Facts of every instruction as syntax, one lemma per constructor. -/

namespace Sys2Proof.Laws.EncodeLength

open Sys2Proof

/-- A transaction has two bytes (R81), a command one (R83). -/
def Statement (i : Instr) : Prop :=
  (encode i).length = match i.format with | .bus => 2 | .cmd => 1

theorem rd (a : Addr) (d : Byte) : Statement (.rd a d) := rfl
theorem wr (a : Addr) (v : Byte) : Statement (.wr a v) := rfl
theorem ldstate : Statement .ldstate := rfl
theorem ststate : Statement .ststate := rfl
theorem ldkey (k : KeySel) : Statement (.ldkey k) := rfl
theorem strk : Statement .strk := rfl
theorem subbytes : Statement .subbytes := rfl
theorem shiftrows : Statement .shiftrows := rfl
theorem mixcolumns : Statement .mixcolumns := rfl
theorem keystep : Statement .keystep := rfl
theorem addroundkey : Statement .addroundkey := rfl
theorem aesenc (k : KeySel) : Statement (.aesenc k) := rfl
theorem dbl : Statement .dbl := rfl
theorem payload : Statement .payload := rfl
theorem mic : Statement .mic := rfl

end Sys2Proof.Laws.EncodeLength
end

