-- ==== Sys2Proof/Laws/Step.lean ====
section
/-! SUPPORT. What one step can do. -/

namespace Sys2Proof.Machine

/-- What the host issues is a transaction. -/
theorem hostIssue_format {v : Byte} {p rest : List HostOp} {i : Instr} (h : hostIssue v p = some (i, rest)) :
    i.format = .bus := by
  have hd (w : BusWord) : (decodeTransaction w).format = .bus := by rw [decodeTransaction]; split <;> rfl
  cases p with
  | nil => cases h
  | cons o _ => cases o <;> cases h <;> first | rfl | exact hd _

@[simp] theorem runWork_run (i : Instr) (s : State) : runWork (.run i s) = exec i s := rfl
@[simp] theorem runWork_pass (s : State) : runWork (.pass s) = .next s := rfl
@[simp] theorem runWork_stuck : runWork .stuck = .fault .busyWithoutCommand := rfl

/-- The schedule used up stays used up. -/
theorem schedule_nil {s : State} (h : s.schedule = []) : { s with schedule := [] } = s := by rw [← h]

/-- What is to do in the host's turn. -/
theorem nextWork_host {s : State} {sch : List Turn} (h : HostTurn s sch) :
    nextWork s = hostWork { s with schedule := sch } := by
  rcases h with h | ⟨h, rfl, hb⟩
  · rw [nextWork, h]
  · rw [nextWork, h, schedule_nil h]
    simp [hb]

/-- What is to do in the sequencer's turn. -/
theorem nextWork_sequencer {s : State} {sch : List Turn} (h : SequencerTurn s sch) :
    nextWork s = sequencerWork { s with schedule := sch } := by
  rcases h with h | ⟨h, rfl, hb⟩
  · rw [nextWork, h]
  · rw [nextWork, h, schedule_nil h]
    simp [hb]

/-- The step of the host's turn with something left in its program. -/
theorem step_host {s : State} {sch : List Turn} {i : Instr} {rest : List HostOp} (h : HostTurn s sch)
    (hi : hostIssue (hostRead statusAddr s) s.program = some (i, rest)) :
    step s = exec i { s with program := rest, schedule := sch } := by
  have hi' : hostIssue (hostRead statusAddr { s with schedule := sch }) s.program = some (i, rest) := by
    rw [hostRead_status] at hi ⊢
    exact hi
  rw [step, nextWork_host h, hostWork, hi']
  rfl

/-- The step of the host's turn with its program at the end. -/
theorem step_host_done {s : State} {sch : List Turn} (h : HostTurn s sch) (hp : s.program = []) :
    step s = .next { s with schedule := sch } := by
  rw [step, nextWork_host h, hostWork, hp]
  rfl

/-- The step of the sequencer's turn with BUSY = 1 and a legal command in CMD (R62). -/
theorem step_sequencer {s : State} {sch : List Turn} {i : Instr} (h : SequencerTurn s sch) (hb : s.busy = true)
    (hd : decodeCommand s.cmd = .ok i) : step s = exec i { s with schedule := sch } := by
  rw [step, nextWork_sequencer h, sequencerWork]
  simp [hb, hd]

/-- The step of the sequencer's turn with BUSY = 0 (R62). -/
theorem step_sequencer_idle {s : State} {sch : List Turn} (h : s.schedule = .sequencer :: sch) (hb : s.busy = false) :
    step s = .next { s with schedule := sch } := by
  rw [step, nextWork_sequencer (.inl h), sequencerWork]
  simp [hb]

/-- The step of a reset (R190). -/
theorem step_reset {s : State} {sch : List Turn} (h : s.schedule = .reset :: sch) :
    step s = .next (resetEvent { s with schedule := sch }) := by
  rw [step, nextWork, h]
  rfl

/-- One step that answers a next state: a transaction of the host, a command's completion, a reset, or a turn with
nothing to do (R11, R65). -/
theorem step_cases {s t : State} (h : step s = .next t) :
    (∃ sch i rest, HostTurn s sch ∧ hostIssue (hostRead statusAddr s) s.program = some (i, rest) ∧
      exec i { s with program := rest, schedule := sch } = .next t) ∨
    (∃ sch i, SequencerTurn s sch ∧ s.busy = true ∧ decodeCommand s.cmd = .ok i ∧
      exec i { s with schedule := sch } = .next t) ∨
    (∃ sch, s.schedule = .reset :: sch ∧ t = resetEvent { s with schedule := sch }) ∨
    (∃ sch, (HostTurn s sch ∧ s.program = [] ∨ SequencerTurn s sch ∧ s.busy = false) ∧
      t = { s with schedule := sch }) := by
  have host {sch : List Turn} (ht : HostTurn s sch) :
      (∃ i rest, hostIssue (hostRead statusAddr s) s.program = some (i, rest) ∧
        exec i { s with program := rest, schedule := sch } = .next t) ∨
      s.program = [] ∧ t = { s with schedule := sch } := by
    cases hp : s.program with
    | nil =>
      rw [step_host_done ht hp] at h
      exact .inr ⟨rfl, by simpa [hp] using h.symm⟩
    | cons o p =>
      obtain ⟨x, hx⟩ : ∃ x, hostIssue (hostRead statusAddr s) (o :: p) = some x := by cases o <;> exact ⟨_, rfl⟩
      rw [step_host (i := x.1) (rest := x.2) ht (by rw [hp, hx])] at h
      exact .inl ⟨x.1, x.2, hx, h⟩
  have seq {sch : List Turn} (ht : SequencerTurn s sch) (hb : s.busy = true) :
      ∃ i, decodeCommand s.cmd = .ok i ∧ exec i { s with schedule := sch } = .next t := by
    cases hd : decodeCommand s.cmd with
    | ok i => exact ⟨i, rfl, by rwa [step_sequencer ht hb hd] at h⟩
    | error e =>
      rw [step, nextWork_sequencer ht, sequencerWork] at h
      simp [hb, hd] at h
  have turn : (∃ sch, HostTurn s sch) ∨ (∃ sch, SequencerTurn s sch ∧ s.busy = true) ∨
      (∃ sch, s.schedule = .sequencer :: sch ∧ s.busy = false) ∨ ∃ sch, s.schedule = .reset :: sch := by
    cases hs : s.schedule with
    | nil =>
      cases hb : s.busy with
      | true => exact .inr (.inl ⟨[], .inr ⟨hs, rfl, hb⟩, rfl⟩)
      | false => exact .inl ⟨[], .inr ⟨hs, rfl, hb⟩⟩
    | cons r sch =>
      cases r with
      | host => exact .inl ⟨sch, .inl hs⟩
      | sequencer =>
        cases hb : s.busy with
        | true => exact .inr (.inl ⟨sch, .inl hs, rfl⟩)
        | false => exact .inr (.inr (.inl ⟨sch, rfl, rfl⟩))
      | reset => exact .inr (.inr (.inr ⟨sch, rfl⟩))
  obtain ⟨sch, ht⟩ | ⟨sch, ht, hb⟩ | ⟨sch, hs, hb⟩ | ⟨sch, hs⟩ := turn
  · obtain ⟨i, rest, hi, he⟩ | ⟨hp, he⟩ := host ht
    · exact .inl ⟨sch, i, rest, ht, hi, he⟩
    · exact .inr (.inr (.inr ⟨sch, .inl ⟨ht, hp⟩, he⟩))
  · obtain ⟨i, hd, he⟩ := seq ht hb
    exact .inr (.inl ⟨sch, i, ht, hb, hd, he⟩)
  · rw [step_sequencer_idle hs hb] at h
    exact .inr (.inr (.inr ⟨sch, .inr ⟨.inl hs, hb⟩, by simpa using h.symm⟩))
  · rw [step_reset hs] at h
    exact .inr (.inr (.inl ⟨sch, hs, by simpa using h.symm⟩))

end Sys2Proof.Machine
end

