-- ==== Sys2Proof/Tests/Slice0.lean ====
section
/-! SUPPORT. Tests. Expected values come from the spec: its encoding tables, its examples and its vectors T3 to T7
(95_test_vectors.md, 96_test_vectors_families.md). Then one witness for the hypotheses of each statement. -/

namespace Sys2Proof.Tests

open Sys2Proof Sys2Proof.Machine Sys2Proof.Claims

set_option maxRecDepth 100000
set_option Elab.async false

/-! ## Helpers -/

/-- The `n` bytes of a number written in hexadecimal, first byte first. -/
def bytes (n v : Nat) : Vector Byte n := Vector.ofFn fun i => BitVec.ofNat 8 (v >>> (8 * (n - 1 - i.val)))

/-- BUF with `n` bytes of a message at its start and 0x77 in the rest. -/
def bufOf (n v : Nat) : Buffer :=
  Vector.ofFn fun i => if i.val < n then BitVec.ofNat 8 (v >>> (8 * (n - 1 - i.val))) else 0x77

/-- An idle core with every register zero. -/
def blank : State where
  keyApp := bytes 16 0
  keyNwk := bytes 16 0
  devAddr := bytes 4 0
  fcntLo := 0x00
  fcntHi := 0x00
  len := 0x00
  cmd := 0x00
  busy := false
  done := false
  err := .none
  rcon := 0x00
  round := 0
  mic := bytes 4 0
  block := bytes 16 0
  buf := bufOf 0 0
  state := Vector.ofFn fun _ => bytes 4 0
  rk := bytes 16 0
  k1 := bytes 16 0
  k2 := bytes 16 0
  chain := bytes 16 0
  program := []
  schedule := []
  reads := []
  returned := 0x00
  draws := 0

/-- A check of the next state; a fault or a refusal fails it. -/
def holds (o : Host.Outcome State Fault Refusal) (p : State → Bool) : Bool :=
  match o with
  | .next t => p t
  | .fault _ => false
  | .refused _ => false

/-! ## Well-formedness: what the checks refuse and what they take -/

theorem test_read_with_data_is_not_canonical : ¬(Instr.rd 0x28 0x01).WellFormed := by decide
theorem test_command_is_no_program : ¬WellFormedProgram [.wr 0x26 0x10, .subbytes] := by decide
theorem test_noncanonical_read_in_no_program : ¬WellFormedProgram [.rd 0x27 0xFF] := by decide
theorem test_reads_and_writes_are_a_program : WellFormedProgram [.wr 0x27 0x1A, .rd 0x28 0x00] := by decide

/-! ## Decoding: words written out from 30_encoding.md R81, R85, R86 -/

/-- R89: `RD STATUS` is 2800; W = 0, A = 0101000. -/
theorem test_decode_rd : decode .bus [0b00101000, 0b00000000] = .ok (.rd 0b0101000 0x00, []) := by decide
/-- R89: `WR LEN, 0x10` is A610; W = 1, A = 0100110. -/
theorem test_decode_wr : decode .bus [0b10100110, 0b00010000] = .ok (.wr 0b0100110 0x10, []) := by decide
theorem test_decode_bus_truncated : decode .bus [0xA6] = .error .truncated := by decide
theorem test_decode_ldstate : decode .cmd [0b00000001] = .ok (.ldstate, []) := by decide
theorem test_decode_ststate : decode .cmd [0b00000010] = .ok (.ststate, []) := by decide
theorem test_decode_ldkey_app : decode .cmd [0b00000011] = .ok (.ldkey .app, []) := by decide
theorem test_decode_ldkey_nwk : decode .cmd [0b00010011] = .ok (.ldkey .nwk, []) := by decide
theorem test_decode_strk : decode .cmd [0b00000100] = .ok (.strk, []) := by decide
theorem test_decode_subbytes : decode .cmd [0b00000101] = .ok (.subbytes, []) := by decide
theorem test_decode_shiftrows : decode .cmd [0b00000110] = .ok (.shiftrows, []) := by decide
theorem test_decode_mixcolumns : decode .cmd [0b00000111] = .ok (.mixcolumns, []) := by decide
theorem test_decode_keystep : decode .cmd [0b00001000] = .ok (.keystep, []) := by decide
theorem test_decode_addroundkey : decode .cmd [0b00001001] = .ok (.addroundkey, []) := by decide
theorem test_decode_aesenc_app : decode .cmd [0b00001010] = .ok (.aesenc .app, []) := by decide
theorem test_decode_aesenc_nwk : decode .cmd [0b00011010] = .ok (.aesenc .nwk, []) := by decide
theorem test_decode_dbl : decode .cmd [0b00001011] = .ok (.dbl, []) := by decide
theorem test_decode_payload : decode .cmd [0b00001100] = .ok (.payload, []) := by decide
theorem test_decode_mic : decode .cmd [0b00011101] = .ok (.mic, []) := by decide
/-- R86: one byte of each kind of illegal command byte. -/
theorem test_decode_illegal : decodeCommand 0x00 = .error .unassignedOp ∧ decodeCommand 0x1F = .error .unassignedOp ∧
    decodeCommand 0x11 = .error .keySelect ∧ decodeCommand 0x1C = .error .keySelect ∧
    decodeCommand 0x0D = .error .keySelect ∧ decodeCommand 0x21 = .error .reservedBits ∧
    decodeCommand 0x8A = .error .reservedBits := by decide
theorem test_table_words : decodeTableWord 16 0xA710 = some (.wr 0x27 0x10) ∧
    decodeTableWord 8 0x1D = some .mic ∧ decodeTableWord 8 0x0D = none ∧ decodeTableWord 8 0x113 = none := by decide

/-! ## The round operations: vectors T4 -/

/-- T4.1. -/
theorem test_ldstate_ststate : holds (exec .ldstate { blank with block := bytes 16 0x000102030405060708090a0b0c0d0e0f })
    (fun t => t.state[1] == #v[0x01, 0x05, 0x09, 0x0d] &&
      holds (exec .ststate { t with block := bytes 16 0 }) (·.block == bytes 16 0x000102030405060708090a0b0c0d0e0f))
    = true := by decide +kernel
/-- T4.2, the row from round 1 of T3.9, loaded by LDSTATE. -/
theorem test_subbytes : holds (execAll [.ldstate, .subbytes, .ststate]
    { blank with block := bytes 16 0x193de3bea0f4e22b9ac68d2ae9f84808 })
    (·.block == bytes 16 0xd42711aee0bf98f1b8b45de51e415230) = true := by decide +kernel
/-- T4.3, first row. -/
theorem test_shiftrows : holds (execAll [.ldstate, .shiftrows, .ststate]
    { blank with block := bytes 16 0x000102030405060708090a0b0c0d0e0f })
    (·.block == bytes 16 0x00050a0f04090e03080d02070c01060b) = true := by decide +kernel
/-- T4.4, the whole state. -/
theorem test_mixcolumns : holds (execAll [.ldstate, .mixcolumns, .ststate]
    { blank with block := bytes 16 0xd4bf5d30e0b452aeb84111f11e2798e5 })
    (·.block == bytes 16 0x046681e5e0cb199a48f8d37a2806264c) = true := by decide +kernel
/-- T4.5. -/
theorem test_addroundkey : holds (execAll [.ldstate, .addroundkey, .ststate]
    { blank with block := bytes 16 0x3243f6a8885a308d313198a2e0370734, rk := bytes 16 0x2b7e151628aed2a6abf7158809cf4f3c })
    (·.block == bytes 16 0x193de3bea0f4e22b9ac68d2ae9f84808) = true := by decide +kernel
/-- T4.6, first table, row 1. -/
theorem test_keystep : holds (exec .keystep { blank with rk := bytes 16 0x2b7e151628aed2a6abf7158809cf4f3c, rcon := 0x01 })
    (fun t => t.rk == bytes 16 0xa0fafe1788542cb123a339392a6c7605 && t.rcon == 0x02 && t.round == 1) = true := by
  decide +kernel
/-- T4.6, from row 15 to row 16: ROUND wraps. -/
theorem test_keystep_wraps : holds
    (exec .keystep { blank with rk := bytes 16 0xe96f13683ffa2c7d9303e4a1885a8eae, rcon := 0x2F, round := 15 })
    (fun t => t.rk == bytes 16 0x7876f7ac478cdbd1d48f3f705cd5b1de && t.rcon == 0x5E && t.round == 0) = true := by
  decide +kernel
/-- R110, R111: the network key through RK into BLOCK. -/
theorem test_ldkey_strk : holds (execAll [.ldkey .nwk, .strk] { blank with
    keyNwk := bytes 16 0x2b7e151628aed2a6abf7158809cf4f3c, round := 7 })
    (fun t => t.block == bytes 16 0x2b7e151628aed2a6abf7158809cf4f3c && t.rcon == 0x01 && t.round == 0) = true := by
  decide +kernel

/-! ## The cipher and the constructions: vectors T3, T5, T6 -/

/-- T3.2 (FIPS-197 appendix C.1). -/
theorem test_aesenc : holds (exec (.aesenc .app) { blank with
    keyApp := bytes 16 0x000102030405060708090a0b0c0d0e0f, block := bytes 16 0x00112233445566778899aabbccddeeff })
    (fun t => t.block == bytes 16 0x69c4e0d86a7b0430d8cdb78070b4c55a &&
      t.rk == bytes 16 0x13111d7fe3944a17f307a78b4d2b30c5 && t.rcon == 0x6C && t.round == 10) = true := by decide +kernel
/-- T5.9: the top bit and the next bit set. -/
theorem test_dbl : holds (exec .dbl { blank with block := bytes 16 0xc0000000000000000000000000000000 })
    (·.block == bytes 16 0x80000000000000000000000000000087) = true := by decide +kernel
/-- T6.2: a full block and one byte; the bytes past LEN are left (T6.9). -/
theorem test_payload : holds (exec .payload { blank with
    keyApp := bytes 16 0x2b7e151628aed2a6abf7158809cf4f3c, devAddr := bytes 4 0x26011bda, fcntLo := 0x02, fcntHi := 0x01,
    len := 17, buf := bufOf 17 0x000102030405060708090a0b0c0d0e0f10 })
    (fun t => t.buf == bufOf 17 0x5a93077901cf07dbe8eb424f774420fa42 &&
      t.block == bytes 16 0x52f53814032af930b424ceb6505eb3f0) = true := by decide +kernel
/-- T6.7. -/
theorem test_payload_empty : exec .payload blank = .next { blank with busy := false, done := true } := rfl
/-- T5.24 (E1). -/
def micScenario : State :=
  { blank with devAddr := bytes 4 0x00000001, len := 11, buf := bufOf 11 0x400100000000000001ded0 }
theorem test_mic : holds (exec .mic micScenario) (fun t => t.mic == bytes 4 0x2e2348a1 &&
    t.block == bytes 16 0x2e2348a1ecfa7fe8eab2e93738b3197e && t.k2 == bytes 16 0x9ba52f53be28b0ee2133e96728d0ac3f &&
    t.chain == bytes 16 0x183e998bb50c4a69226c2a60ce303a4a) = true := by decide +kernel
/-- T5.14: a full last block, K1. -/
theorem test_mic_full_block : holds (exec .mic { blank with
    keyNwk := bytes 16 0x2b7e151628aed2a6abf7158809cf4f3c, devAddr := bytes 4 0x26011bda, fcntLo := 0x02, fcntHi := 0x01,
    len := 16, buf := bufOf 16 0x000102030405060708090a0b0c0d0e0f })
    (·.mic == bytes 4 0xb6fcb9c4) = true := by decide +kernel

/-! ## The register interface: vectors T7 and the rules R56 to R63 -/

/-- R56: CMD reads the last accepted byte, ROUND has zeros above, the reserved address reads 0x00. -/
theorem test_rd : holds (execAll [.rd 0x27 0x00, .rd 0x2A 0x55, .rd 0x2B 0x00, .rd 0x28 0x00]
    { blank with cmd := 0x1D, round := 10, err := .busyAccess, done := true })
    (·.reads == [0x0E, 0x00, 0x0A, 0x1D]) = true := by decide +kernel
/-- R57, R60, R171: data is stored; an illegal command byte raises ILLEGAL_CMD. -/
theorem test_wr : holds (execAll [.wr 0x26 0x10, .wr 0x7F 0xFE, .wr 0x27 0x0D] blank)
    (fun t => t.len == 0x10 && t.buf[63] == 0xFE && t.err == .illegalCmd && !t.busy && t.cmd == 0x00) = true := by
  decide +kernel
/-- T7.5 in short: a command runs while the host writes; the write is dropped and recorded, the command completes. -/
theorem test_busy_access : holds (Host.Core.run Sys2Proof.core 4 { blank with
    program := [.transaction 0xA70B, .transaction 0xB0FF, .transaction 0x2800],
    schedule := [.host, .host, .sequencer, .host], block := bytes 16 0x01 })
    (fun t : State => t.block == bytes 16 0x02 && t.reads == [0x0E]) = true := by decide +kernel
/-- R90: `RUN DBL` with two polls before the sequencer's turn; the last read alone has BUSY = 0. -/
theorem test_run_polls : holds (Host.Core.run Sys2Proof.core 5 { blank with
    program := pseudoRun .dbl, schedule := [.host, .host, .host], block := bytes 16 0x01 })
    (fun t : State => t.block == bytes 16 0x02 && t.reads == [0x02, 0x01, 0x01] && t.program == []) = true := by
  decide +kernel
/-- R90, T7.2: `ACK` after a refused command writes back the byte it read. -/
theorem test_ack : holds (Host.Core.run Sys2Proof.core 2 { blank with
    program := pseudoAck, err := .illegalCmd, done := true })
    (fun t : State => t.reads == [0x06] && t.err == .none && !t.done && t.program == []) = true := by decide +kernel
/-- R90: `CMD MIC` is A71D; `SETFCNT 0x0102` is A402, A501; `RDN MIC, 2` is 2C00, 2D00; `WRN` of two bytes at DEVADDR. -/
theorem test_pseudo_words : pseudoCmd .mic = [.transaction 0xA71D] ∧
    pseudoSetFcnt 0x0102 = [.transaction 0xA402, .transaction 0xA501] ∧
    pseudoRdn 0x2C 2 = [.transaction 0x2C00, .transaction 0x2D00] ∧
    pseudoWrn 0x20 [0x26, 0x01] = [.transaction 0xA026, .transaction 0xA101] := by decide
/-- R43, T7.1: STATUS and CMD after reset. -/
theorem test_reset : statusByte State.reset = 0x00 ∧ State.reset.cmd = 0x00 := by decide
theorem test_first_transaction : holds (step (State.reset.withFetchWord 16 0x2800)) (·.reads == [0x00]) = true := by
  decide +kernel
theorem test_first_command : holds (step (State.reset.withFetchWord 8 0x13))
    (fun t => t.rcon == 0x01 && t.round == 0 && t.done && !t.busy) = true := by decide +kernel

/-! ## Witnesses: a state and operands that meet the hypotheses of each statement, each clause at its boundaries -/

theorem witness_EncodeOfDecode : decodeCommand 0x01 = .ok .ldstate ∧ decodeCommand 0x1D = .ok .mic := by decide

/-- The host's turn by the schedule, and with the schedule used up. -/
theorem witness_StepRunsTransaction :
    (let s := { blank with program := [.transaction 0x2800], schedule := [.host, .sequencer] }
     HostTurn s [.sequencer] ∧ s.program = .transaction 0x2800 :: []) ∧
    (let s := { blank with program := [.transaction 0x2800] }
     HostTurn s [] ∧ s.program = .transaction 0x2800 :: []) :=
  ⟨⟨.inl rfl, rfl⟩, ⟨.inr ⟨rfl, rfl, rfl⟩, rfl⟩⟩

theorem witness_StepRunsCommand :
    (let s := { blank with schedule := [.sequencer, .reset], busy := true, cmd := 0x1D }
     SequencerTurn s [.reset] ∧ s.busy = true ∧ decodeCommand s.cmd = .ok .mic) ∧
    (let s := { blank with busy := true, cmd := 0x01 }
     SequencerTurn s [] ∧ s.busy = true ∧ decodeCommand s.cmd = .ok .ldstate) ∧
    (let s := { blank with schedule := [.sequencer] }
     s.schedule = .sequencer :: [] ∧ s.busy = false) :=
  ⟨⟨.inl rfl, rfl, by decide⟩, ⟨.inr ⟨rfl, rfl, rfl⟩, rfl, by decide⟩, rfl, rfl⟩

theorem witness_PseudoInstructionsExpand : Instr.format .payload = .cmd ∧ Instr.format (.ldkey .nwk) = .cmd := by decide

/-- A WAIT that goes on and one that ends. -/
theorem witness_WaitRepeatsWhileBusy :
    (let s := { blank with program := [.wait], schedule := [.host], busy := true }
     HostTurn s [] ∧ s.program = .wait :: [] ∧ (mapped s 0x28).toNat.testBit 0 = true) ∧
    (let s := { blank with program := [.wait] }
     HostTurn s [] ∧ s.program = .wait :: [] ∧ (mapped s 0x28).toNat.testBit 0 = false) :=
  ⟨⟨.inl rfl, rfl, by decide⟩, .inr ⟨rfl, rfl, rfl⟩, rfl, by decide⟩

theorem witness_WaitEndsWhenIdle :
    let s := { blank with program := [.wait], schedule := [.host, .host], busy := true, cmd := 0x0B }
    CoreInv s ∧ s.program = .wait :: [] :=
  ⟨⟨.inr (by decide), by decide, by decide⟩, rfl⟩

/-- PAYLOAD with LEN 0 and 64, MIC with LEN 1 and 64. -/
theorem witness_RunCompletesCommand :
    (let s := { blank with program := pseudoRun .payload, schedule := [.host, .host, .sequencer] }
     s.busy = false ∧ s.err = .none ∧ decodeCommand 0x0C = .ok .payload ∧ s.len.toNat ≤ 64 ∧
     s.program = pseudoRun .payload ++ [] ∧ ∀ r ∈ s.schedule, r ≠ .reset) ∧
    (64 : Byte).toNat ≤ 64 ∧
    (let s := { blank with program := pseudoRun .mic ++ pseudoAck, len := 1 }
     s.busy = false ∧ s.err = .none ∧ decodeCommand 0x1D = .ok .mic ∧ (1 ≤ s.len.toNat ∧ s.len.toNat ≤ 64) ∧
     s.program = pseudoRun .mic ++ pseudoAck ∧ ∀ r ∈ s.schedule, r ≠ .reset) := by decide

/-- The host's two turns by the schedule with a command running, the second with the schedule used up, and both so. -/
theorem witness_AckClearsDoneAndErr :
    (let s := { blank with program := [.ack], schedule := [.host, .host], err := .busyAccess, busy := true }
     s.program = .ack :: [] ∧ HostTurn s [.host] ∧ HostTurn { s with schedule := [.host] } []) ∧
    (let s := { blank with program := [.ack], schedule := [.host], err := .lenRange }
     s.program = .ack :: [] ∧ HostTurn s [] ∧ HostTurn { s with schedule := [] } []) ∧
    (let s := { blank with program := [.ack], done := true }
     s.program = .ack :: [] ∧ HostTurn s [] ∧ HostTurn { s with schedule := [] } []) :=
  ⟨⟨rfl, .inl rfl, .inl rfl⟩, ⟨rfl, .inl rfl, .inr ⟨rfl, rfl, rfl⟩⟩,
    rfl, .inr ⟨rfl, rfl, rfl⟩, .inr ⟨rfl, rfl, rfl⟩⟩

theorem witness_ReadReturnsMappedByte :
    ((0x28 : Addr).toNat = 0x28 ∧ { blank with busy := true }.busy = true) ∧ blank.busy = false ∧
    (0x7F : Addr).toNat = 0x7F := by decide

theorem witness_WriteStoresDataByte : blank.busy = false ∧ isData 0x00 = true ∧ isData 0x26 = true ∧
    isData 0x27 = false ∧ isData 0x2F = false ∧ isData 0x30 = true ∧ isData 0x7F = true ∧ (0x01 : Addr) ≠ 0x00 := by decide

theorem witness_WriteReadOnlyIgnored :
    (blank.busy = false ∧ 0x29 ≤ (0x29 : Addr).toNat ∧ (0x2F : Addr).toNat ≤ 0x2F) ∧
    (∃ t, exec (.wr 0x29 0xFF) blank = .next t ∧ Instr.format (.wr 0x29 0xFF) = .bus) :=
  ⟨by decide, _, rfl, rfl⟩

/-- The four outcomes of a write to CMD, LEN at 0, 64 and 65. -/
theorem witness_CommandWriteOutcome :
    ({ blank with err := .lenRange }.busy = false ∧ { blank with err := .lenRange }.err ≠ .none) ∧
    (blank.busy = false ∧ blank.err = .none ∧ (0x00 : Byte) ∉ legalBytes ∧ (0x0D : Byte) ∉ legalBytes) ∧
    (0x0C ∈ legalBytes ∧ 64 < { blank with len := 65 }.len.toNat) ∧
    (0x1D ∈ legalBytes ∧ blank.len.toNat = 0) ∧
    (0x1D ∈ legalBytes ∧ ¬({ blank with len := 64 }.len.toNat = 0 ∨ 64 < { blank with len := 64 }.len.toNat)) ∧
    (0x0C ∈ legalBytes ∧ ¬(64 < blank.len.toNat)) := by decide

theorem witness_BusyWriteDropped : { blank with busy := true }.busy = true ∧ (0x27 : Addr) ≠ 0x28 ∧ (0x29 : Addr) ≠ 0x28 := by
  decide

/-- One state for each of the three ways in which ERR changes. -/
theorem witness_ErrChangesOnlyByWrites :
    (∃ t, exec (.wr 0x28 0x04) { blank with err := .lenRange } = .next t ∧ t.err ≠ .lenRange) ∧
    (∃ t, exec (.wr 0x29 0x00) { blank with busy := true } = .next t ∧ t.err ≠ .none) ∧
    (∃ t, exec (.wr 0x27 0x0D) blank = .next t ∧ t.err ≠ .none) :=
  ⟨⟨_, rfl, by decide⟩, ⟨_, rfl, by decide⟩, ⟨_, rfl, by decide⟩⟩

/-- A column of four equal bytes, for MIXCOLUMNS; a byte that is not zero, for the S-box. -/
theorem witness_MixcolumnsMultiplies : ∀ r : Fin 4, blank.state[r][(2 : Fin 4)] = 0x00 := by decide
theorem witness_SboxIsAffineInverse : (0x53 : Byte) ≠ 0x00 ∧ sbox 0x53 = sbox 0x53 := by decide

theorem witness_AesencIsRoundSequence : Config.initialArk = true := rfl
theorem witness_AesencIsStandardCipher : Config.initialArk = true := rfl

theorem witness_PayloadXorsKeystream : Config.initialArk = true ∧ blank.len.toNat = 0 ∧
    (1 ≤ { blank with len := 1 }.len.toNat ∧ { blank with len := 1 }.len.toNat ≤ 64) ∧
    (1 ≤ { blank with len := 64 }.len.toNat ∧ { blank with len := 64 }.len.toNat ≤ 64) := by decide

/-- The second run starts from a state with another BLOCK. -/
theorem witness_PayloadIsInvolution : ∃ t : State, exec .payload { blank with len := 64 } = .next t ∧
    (64 : Byte).toNat ≤ 64 ∧ (let u := { t with block := bytes 16 1, busy := true }
      u.buf = t.buf ∧ u.len = 64 ∧ u.devAddr = blank.devAddr ∧ u.keyApp = blank.keyApp ∧
      u.fcntLo = blank.fcntLo ∧ u.fcntHi = blank.fcntHi) := by
  refine ⟨_, exec_command .payload { blank with len := 64 } rfl, by decide, rfl, ?_⟩
  rw [commandEffect_frame]
  exact ⟨rfl, rfl, rfl, rfl, rfl⟩

theorem witness_MicIsCmacOfHeaderAndMessage : Config.initialArk = true ∧
    (1 ≤ { blank with len := 1 }.len.toNat ∧ { blank with len := 1 }.len.toNat ≤ 64) ∧
    (1 ≤ { blank with len := 64 }.len.toNat ∧ { blank with len := 64 }.len.toNat ≤ 64) := by decide

/-- Two states that agree on MIC's inputs and differ in CHAIN and past LEN. -/
theorem witness_MicDependsOnInputsOnly :
    let s := { blank with len := 11, buf := bufOf 11 0x400100000000000001ded0 }
    let t := { s with chain := bytes 16 1, buf := bufOf 12 0x400100000000000001ded0ff }
    1 ≤ s.len.toNat ∧ s.len.toNat ≤ 64 ∧ t.len = s.len ∧ t.keyNwk = s.keyNwk ∧ t.devAddr = s.devAddr ∧
    t.fcntLo = s.fcntLo ∧ t.fcntHi = s.fcntHi ∧ (∀ k : Fin 64, k.val < s.len.toNat → t.buf[k] = s.buf[k]) ∧ t ≠ s := by
  decide +kernel

theorem witness_CommandsKeepWriteSets : Instr.format .mic = .cmd ∧ Instr.format .payload = .cmd := by decide

theorem witness_SessionWrittenByHostOnly :
    (∃ t, exec .dbl blank = .next t ∧ Instr.format .dbl = .cmd) ∧
    (∃ t, exec .mic micScenario = .next t ∧ t.mic ≠ micScenario.mic) := by
  refine ⟨⟨_, rfl, rfl⟩, _, rfl, ?_⟩
  have h := test_mic
  intro he
  rw [exec_command .mic micScenario rfl] at h
  simp only [holds, Bool.and_eq_true, beq_iff_eq] at h
  exact absurd (h.1.1.1.symm.trans he) (by decide +kernel)

theorem witness_BusyTransactionsDisturbNothing : { blank with busy := true }.busy = true ∧ Instr.format (.wr 0x27 0x01) = .bus ∧
    Instr.format (.rd 0x30 0x00) = .bus := by decide

theorem witness_AcceptedCommandCompletes :
    let s := { blank with
      busy := true, cmd := 0x0B, program := [.transaction 0xA701], schedule := [.host, .host, .sequencer, .reset] }
    s.busy = true ∧ decodeCommand s.cmd = .ok .dbl ∧ turnsLeft s.schedule = 2 ∧
    ∀ r ∈ s.schedule.take (turnsLeft s.schedule), r ≠ .reset := by decide

theorem witness_ResetDiscardsCommand :
    { blank with busy := true, cmd := 0x1D, schedule := [.reset] }.schedule = .reset :: [] := rfl

theorem witness_StepKeepsInvariant : ∃ t, CoreInv blank ∧ step blank = .next t :=
  ⟨blank, ⟨.inl rfl, by decide, by decide⟩, rfl⟩

theorem witness_StepKeepsInvariant_busy : CoreInv { blank with busy := true, cmd := 0x1D, len := 64 } :=
  ⟨.inr (by decide), by decide, by decide⟩

theorem witness_CoreNeverHalts : CoreInv blank ∧ blank.busy = false ∧ blank.schedule = [] ∧ blank.program = [] :=
  ⟨⟨.inl rfl, by decide, by decide⟩, rfl, rfl, rfl⟩

end Sys2Proof.Tests
end

section
/-! The host's turn with a transaction next in its program (R11, R65, R80). -/

namespace Sys2Proof.Machine

/-- A transaction is issued as it stands: no byte read decides it, unlike the reads of WAIT and ACK (R90). -/
@[simp] theorem hostIssue_transaction (v : Byte) (w : BusWord) (rest : List HostOp) :
    hostIssue v (.transaction w :: rest) = some (decodeTransaction w, rest) := rfl

/-- The host's turn with a transaction next is that transaction's decoded instruction. -/
theorem step_transaction {s : State} {w : BusWord} {rest : List HostOp} {sch : List Turn} (h : HostTurn s sch)
    (hp : s.program = .transaction w :: rest) :
    step s = exec (decodeTransaction w) { s with program := rest, schedule := sch } :=
  step_host h (by rw [hp, hostIssue_transaction])

end Sys2Proof.Machine

open Sys2Proof Sys2Proof.Machine

/-- Settles O5: the rule for the host's turn, at what the host issues for a transaction. -/
theorem stepRunsTransaction : Obligations.StepRunsTransaction := by
  intro s w rest sch hturn hprogram
  exact step_transaction hturn hprogram

end

section
/-! The life-cycle invariant of CMD, BUSY, DONE and LEN (R29, R31, R32, R60 to R63): it speaks of four registers only, so
each event of a step keeps it for one of four reasons, and every step is one such event. -/

namespace Sys2Proof

open Sys2Proof.Machine

variable {s t : State}

/-! ## Why a state meets the invariant -/

/-- CMD and BUSY as they were, DONE not newly set, and LEN as it was under a running command: no other register matters. -/
theorem CoreInv.of_kept (h : CoreInv s) (hcmd : t.cmd = s.cmd) (hbusy : t.busy = s.busy)
    (hdone : t.done = true → s.done = true) (hlen : s.busy = true → t.len = s.len) : CoreInv t where
  cmdHeld := by
    rw [CmdHeld, hcmd]
    exact h.cmdHeld
  running := by
    intro hb
    rw [hbusy] at hb
    obtain ⟨haccepted, hnotDone⟩ := h.running hb
    rw [hcmd, hlen hb]
    exact ⟨haccepted, Bool.eq_false_iff.2 fun ht => Bool.eq_false_iff.1 hnotDone (hdone ht)⟩
  doneMeansCommand := by
    rw [hcmd]
    exact fun ht => h.doneMeansCommand (hdone ht)

/-- An idle core with a legal byte in CMD, whatever DONE is (R62). -/
theorem coreInv_of_idle_legal (hbusy : s.busy = false) (hlegal : (decodeCommand s.cmd).isOk = true) : CoreInv s :=
  ⟨.inr hlegal, by simp [RunningAccepted, hbusy], fun _ => hlegal⟩

/-- An idle core with 0x00 in CMD and DONE 0 (R43). -/
theorem coreInv_of_idle_zero (hbusy : s.busy = false) (hcmd : s.cmd = 0x00) (hdone : s.done = false) : CoreInv s :=
  ⟨.inl hcmd, by simp [RunningAccepted, hbusy], by simp [hdone]⟩

/-- A command just accepted (R60 case 4, R61). -/
theorem coreInv_accept {v : Byte} {i : Instr} (hdecode : decodeCommand v = .ok i) (hlen : lenAccepted i s.len = true) :
    CoreInv (accept v s) where
  cmdHeld := .inr (by simp [hdecode, Except.isOk, Except.toBool])
  running := by simp [RunningAccepted, hdecode, hlen]
  doneMeansCommand := by simp

/-- A reset: STATUS and CMD are 0x00, whatever was drawn for the others (R43, R191). -/
theorem coreInv_afterReset (draw : Nat) (before : List Byte) : CoreInv (State.afterReset draw before) :=
  coreInv_of_idle_zero rfl rfl rfl

/-! ## What each event of a step does to it -/

namespace CoreInv

/-- Raising an error leaves all four registers alone (R173). -/
theorem raiseError (h : CoreInv s) (e : ErrCode) : CoreInv (raiseError e s) :=
  h.of_kept rfl rfl id fun _ => rfl

/-- An acknowledge can only clear DONE (R59). -/
theorem acknowledge (h : CoreInv s) (v : Byte) : CoreInv (acknowledge v s) := by
  refine h.of_kept rfl rfl ?_ fun _ => rfl
  intro hdone
  rw [acknowledge_done, doneAfterAck] at hdone
  split at hdone
  · cases hdone
  · exact hdone

/-- A store into an idle core may change LEN, which only a running command needs (R57). -/
theorem storeLoc (h : CoreInv s) (hidle : s.busy = false) (v : Byte) (l : Loc) : CoreInv (storeLoc s v l) := by
  rw [storeLoc_frame]
  exact h.of_kept rfl rfl id fun hb => absurd hb (by simp [hidle])

/-- A write to CMD: only a legal command with LEN in its range is accepted (R60). -/
theorem writeCommand (h : CoreInv s) (v : Byte) : CoreInv (writeCommand v s) := by
  obtain ⟨-, hw⟩ | ⟨-, -, hw⟩ | ⟨-, -, hw⟩ | ⟨-, ⟨i, hdecode, hlen⟩, hw⟩ := writeCommand_cases s v <;> rw [hw]
  · exact h
  · exact h.raiseError _
  · exact h.raiseError _
  · exact coreInv_accept hdecode hlen

/-- Each of the four cases of a host write (R57). -/
theorem hostWrite (h : CoreInv s) (a : Addr) (v : Byte) : CoreInv (hostWrite a v s) := by
  obtain ⟨-, hw⟩ | ⟨-, -, hw⟩ | ⟨-, -, hw⟩ | ⟨-, -, hidle, hw⟩ := hostWrite_cases s a v <;> rw [hw]
  · exact h.acknowledge v
  · exact h.raiseError _
  · exact h.writeCommand v
  · exact h.storeLoc hidle v _

/-- A host transaction (R56, R57). -/
theorem transaction {i : Instr} (h : CoreInv s) (hformat : i.format = .bus) (he : exec i s = .next t) : CoreInv t := by
  cases i with
  | rd a d =>
    cases (exec_rd a d s).symm.trans he
    exact h.of_kept rfl rfl id fun _ => rfl
  | wr a v =>
    cases (exec_wr a v s).symm.trans he
    exact (h.hostWrite a v).of_kept rfl rfl id fun _ => rfl
  | _ => cases hformat

end CoreInv

/-- The completion of a legal command: the core is idle and CMD still holds the command's byte (R62). -/
theorem coreInv_completion {i : Instr} (hdecode : decodeCommand s.cmd = .ok i) (he : exec i s = .next t) : CoreInv t := by
  cases (exec_command i s (decodeCommand_format s.cmd i hdecode)).symm.trans he
  refine coreInv_of_idle_legal rfl ?_
  rw [commandEffect_frame]
  simp [hdecode, Except.isOk, Except.toBool]

/-- A step is one of the four events of `step_cases`, and each keeps the invariant. -/
theorem CoreInv.step (h : CoreInv s) (hstep : step s = .next t) : CoreInv t := by
  obtain ⟨sch, i, rest, -, hissue, he⟩ | ⟨sch, i, -, -, hdecode, he⟩ | ⟨sch, -, rfl⟩ | ⟨sch, -, rfl⟩ := step_cases hstep
  · have hturn : CoreInv { s with program := rest, schedule := sch } := h.of_kept rfl rfl id fun _ => rfl
    exact hturn.transaction (hostIssue_format hissue) he
  · exact coreInv_completion (s := { s with schedule := sch }) hdecode he
  · exact coreInv_of_idle_zero rfl rfl rfl
  · exact h.of_kept rfl rfl id fun _ => rfl

end Sys2Proof

open Sys2Proof Sys2Proof.Machine

/-- Settles O39: the events of a step, one by one. -/
theorem stepKeepsInvariant : Obligations.StepKeepsInvariant := by
  intro s t h hstep
  exact h.step hstep

/-- Settles O38: of what a reset leaves, only STATUS, CMD and the model's own fields have a known value. -/
theorem resetMeetsInvariant : Obligations.ResetMeetsInvariant :=
  ⟨coreInv_afterReset 0 [], rfl, rfl, rfl, rfl⟩

end

section
/-! What the commands write (10_state.md R45), and who writes the session registers and MIC (R21 to R27). -/

namespace Sys2Proof.Machine

open Sys2Proof.Claims

variable (s : State) {t : State}

/-! ## Write sets -/

/-- AES_RUN keeps to AESENC's write set (R132). -/
theorem aesRun_writeSet (ark : Bool) (k : KeySel) : WriteSet s (aesRun ark k s) (.aesenc k) := by
  rw [aesRun_eq]
  simp only [WriteSet, encrypted, setBlock, setState, setKey]

/-- PAYLOAD leaves every byte of BUF from index LEN on (R142). -/
theorem payloadRun_buf_past_len (ark : Bool) (k : Fin 64) (h : s.len.toNat ≤ k.val) :
    (payloadRun ark s).buf[k] = s.buf[k] := by
  rw [payloadRun_eq, payloadAfter_buf]
  simp [bufAfter, h]

/-- PAYLOAD with LEN 0 has no block to do (R142). -/
theorem payloadRun_of_len_zero (ark : Bool) (h : s.len = 0x00) : payloadRun ark s = s := by
  have hcount : blockCount s = 0 := by simp [blockCount, h]
  rw [payloadRun_eq, hcount, payloadAfter]

/-- PAYLOAD's loop keeps to its write set (R142), whether it has a block to do or none. -/
theorem payloadRun_writeSet (ark : Bool) : WriteSet s (payloadRun ark s) .payload := by
  refine ⟨?_, payloadRun_buf_past_len s ark, fun hlen => ?_⟩
  · rw [payloadRun_eq]
    cases blockCount s with
    | zero => rfl
    | succ n => simp only [payloadAfter, encrypted, setBlock, setState, setKey, setBuf]
  · rw [payloadRun_of_len_zero s ark hlen]

/-- MIC's computation keeps to its write set (R154). -/
theorem micRun_writeSet (ark : Bool) : WriteSet s (micRun ark s) .mic := by
  rw [micRun_eq]
  simp only [WriteSet, micState, encrypted, setBlock, setState, setKey, setMic, setChain, setK1, setK2]

/-- A command's effect keeps to its write set (R45). The micro-operations and DBL are one named update each. -/
theorem commandEffect_writeSet (i : Instr) (h : i.format = .cmd) : WriteSet s (commandEffect i s) i := by
  cases i with
  | rd a d => cases h
  | wr a v => cases h
  | aesenc k => exact aesRun_writeSet s Config.initialArk k
  | payload => exact payloadRun_writeSet s Config.initialArk
  | mic => exact micRun_writeSet s Config.initialArk
  | _ => rfl

/-- The end of the completion step stays in every write set: it touches BUSY and DONE alone (R62). -/
theorem writeSet_complete {i : Instr} (h : WriteSet s t i) : WriteSet s (complete t) i := by
  cases i with
  | rd a d => exact h
  | wr a v => exact h
  | payload =>
    obtain ⟨hframe, hpast, hempty⟩ := h
    exact ⟨congrArg complete hframe, hpast, fun hlen => (congrArg complete (hempty hlen) :)⟩
  | _ => exact congrArg complete h

/-! ## Who writes MIC -/

/-- MIC is in the write set of the command MIC alone (R45). -/
theorem mic_eq_of_writeSet {i : Instr} (h : WriteSet s t i) (hi : i ≠ .mic) : t.mic = s.mic := by
  cases i with
  | rd a d => exact h.elim
  | wr a v => exact h.elim
  | payload => exact (congrArg State.mic h.1 :)
  | mic => exact absurd rfl hi
  | _ => exact (congrArg State.mic h :)

/-- A write to CMD leaves MIC alone in each of its four outcomes (R60). -/
theorem writeCommand_mic (v : Byte) : (writeCommand v s).mic = s.mic := by
  obtain ⟨-, hw⟩ | ⟨-, -, hw⟩ | ⟨-, -, hw⟩ | ⟨-, -, hw⟩ := writeCommand_cases s v <;> rw [hw] <;> rfl

/-- No host write changes MIC (R27, R58). -/
theorem hostWrite_mic (a : Addr) (v : Byte) : (hostWrite a v s).mic = s.mic := by
  obtain ⟨-, hw⟩ | ⟨-, -, hw⟩ | ⟨-, -, hw⟩ | ⟨-, -, -, hw⟩ := hostWrite_cases s a v <;> rw [hw]
  · exact acknowledge_mic s v
  · exact raiseError_mic s _
  · exact writeCommand_mic s v
  · rw [storeLoc_frame]

/-- An instruction other than MIC leaves the MIC register: a command by its write set, a transaction since the host cannot
write it. -/
theorem exec_mic_eq {i : Instr} (he : exec i s = .next t) (hi : i ≠ .mic) : t.mic = s.mic := by
  cases hformat : i.format with
  | cmd =>
    cases (exec_command i s hformat).symm.trans he
    exact mic_eq_of_writeSet s (writeSet_complete s (commandEffect_writeSet s i hformat)) hi
  | bus =>
    cases i with
    | rd a d => cases (exec_rd a d s).symm.trans he; rfl
    | wr a v => cases (exec_wr a v s).symm.trans he; exact hostWrite_mic s a v
    | _ => cases hformat

end Sys2Proof.Machine

open Sys2Proof Sys2Proof.Machine

/-- Settles O33: a command completes with its effect, which keeps to its write set. -/
theorem commandsKeepWriteSets : Obligations.CommandsKeepWriteSets := by
  intro i s hformat
  exact ⟨_, exec_command i s hformat, rfl, rfl, writeSet_complete s (commandEffect_writeSet s i hformat)⟩

/-- Settles O34: the frame every command has leaves out the session registers and LEN, and only MIC's write set has the
MIC register. -/
theorem sessionWrittenByHostOnly : Obligations.SessionWrittenByHostOnly := by
  intro i s t he
  refine ⟨fun hformat => ?_, fun hchanged => ?_⟩
  · cases (exec_command i s hformat).symm.trans he
    rw [commandEffect_frame]
    exact ⟨rfl, rfl, rfl, rfl, rfl, rfl⟩
  · by_contra hi
    exact hchanged (exec_mic_eq s he hi)

end

section
/-! The register space as the map of 20_memory.md R50: each location at its own address, and what a store leaves. -/

namespace Sys2Proof.Machine

open Sys2Proof.Claims

variable (s : State)

/-! ## Addresses of locations -/

/-- The address of a location, by the table of R50. -/
def Loc.address : Loc → Nat
  | .keyApp i => i.val
  | .keyNwk i => 0x10 + i.val
  | .devAddr i => 0x20 + i.val
  | .fcntLo => 0x24
  | .fcntHi => 0x25
  | .len => 0x26
  | .cmd => 0x27
  | .status => 0x28
  | .rcon => 0x29
  | .round => 0x2A
  | .reserved => 0x2B
  | .mic i => 0x2C + i.val
  | .block i => 0x30 + i.val
  | .buf i => 0x40 + i.val

/-- Whether a location holds data the host may write (R57 case 4). -/
def Loc.isData : Loc → Bool
  | .keyApp _ => true
  | .keyNwk _ => true
  | .devAddr _ => true
  | .fcntLo => true
  | .fcntHi => true
  | .len => true
  | .cmd => false
  | .status => false
  | .rcon => false
  | .round => false
  | .reserved => false
  | .mic _ => false
  | .block _ => true
  | .buf _ => true

theorem address_locOf (a : Addr) : (locOf a).address = a.toNat := by
  revert a
  decide

theorem isData_locOf (a : Addr) : (locOf a).isData = isData a := by
  revert a
  decide

/-- Two addresses name two locations. -/
theorem locOf_ne {a b : Addr} (h : b ≠ a) : locOf b ≠ locOf a := by
  intro hloc
  have haddress := congrArg Loc.address hloc
  rw [address_locOf, address_locOf] at haddress
  exact h (BitVec.eq_of_toNat_eq haddress)

/-! ## Reading by the map -/

/-- The STATUS byte as a sum (R30). -/
theorem statusByte_eq : statusByte s = BitVec.ofNat 8 (4 * s.err.code.toNat + 2 * s.done.toNat + s.busy.toNat) := by
  rw [statusByte]
  cases s.err <;> cases s.done <;> cases s.busy <;> rfl

theorem getD_toList {n : Nat} (x : Vector Byte n) (i : Fin n) : x.toList.getD i.val 0x00 = x[i] := by
  simp

/-- The map of R50, location by location. -/
theorem mapped_address (l : Loc) : mapped s l.address = readLoc s l := by
  cases l with
  | keyApp i | keyNwk i | devAddr i | mic i | block i | buf i =>
    simp (disch := omega) only [Loc.address, mapped, if_pos, if_neg, Nat.add_sub_cancel_left, getD_toList, readLoc]
  | status => exact (statusByte_eq s).symm
  | round => exact BitVec.ofNat_toNat 8 s.round
  | _ => rfl

/-- A location is read at its own address. -/
theorem mapped_eq_readLoc (a : Addr) : mapped s a.toNat = readLoc s (locOf a) := by
  rw [← address_locOf, mapped_address]

/-- Reads do not look at the byte returned or the draw counter. -/
theorem mapped_endTransaction (b : Byte) (a : Nat) : mapped (endTransaction b s) a = mapped s a := rfl

/-- STATUS is read as it is at any time, the other locations when idle (R56). -/
theorem hostRead_eq_mapped (a : Addr) (h : a.toNat = 0x28 ∨ s.busy = false) : hostRead a s = mapped s a.toNat := by
  by_cases ha : a = statusAddr
  · rw [ha, hostRead_status, statusByte_eq]
    rfl
  · have hidle : s.busy = false := h.resolve_left fun hstatus => ha (BitVec.eq_of_toNat_eq hstatus)
    rw [hostRead_idle s a ha hidle, mapped_eq_readLoc]

/-! ## What a store leaves -/

/-- A location that holds no data ignores a store (R57 case 5, R58). -/
theorem storeLoc_of_not_isData (v : Byte) {l : Loc} (h : l.isData = false) : storeLoc s v l = s := by
  cases l with
  | cmd | status | rcon | round | reserved | mic i => rfl
  | _ => cases h

/-- A data location holds the byte stored there (R57 case 4). -/
theorem readLoc_storeLoc_same (v : Byte) {l : Loc} (h : l.isData = true) : readLoc (storeLoc s v l) l = v := by
  cases l with
  | keyApp i | keyNwk i | devAddr i | block i | buf i => simp [storeLoc, readLoc]
  | fcntLo | fcntHi | len => rfl
  | _ => cases h

/-- `Vector.getElem_set_ne` for the indices of a location. -/
theorem getElem_set_of_ne {n : Nat} (x : Vector Byte n) (v : Byte) {i j : Fin n} (h : j ≠ i) :
    (x.set i v)[j] = x[j] := by
  have hval : i.val ≠ j.val := fun he => h (Fin.ext he.symm)
  simp [Vector.getElem_set_ne, hval]

/-- Every other location is read as before, those of the same array among them (R57 case 4, R52). -/
theorem readLoc_storeLoc_of_ne (v : Byte) {l l' : Loc} (h : l' ≠ l) : readLoc (storeLoc s v l) l' = readLoc s l' := by
  cases l with
  | keyApp i => cases l' with
    | keyApp j => exact getElem_set_of_ne _ v (mt (congrArg Loc.keyApp) h)
    | _ => rfl
  | keyNwk i => cases l' with
    | keyNwk j => exact getElem_set_of_ne _ v (mt (congrArg Loc.keyNwk) h)
    | _ => rfl
  | devAddr i => cases l' with
    | devAddr j => exact getElem_set_of_ne _ v (mt (congrArg Loc.devAddr) h)
    | _ => rfl
  | block i => cases l' with
    | block j => exact getElem_set_of_ne _ v (mt (congrArg Loc.block) h)
    | _ => rfl
  | buf i => cases l' with
    | buf j => exact getElem_set_of_ne _ v (mt (congrArg Loc.buf) h)
    | _ => rfl
  | fcntLo => cases l' with
    | fcntLo => exact absurd rfl h
    | _ => rfl
  | fcntHi => cases l' with
    | fcntHi => exact absurd rfl h
    | _ => rfl
  | len => cases l' with
    | len => exact absurd rfl h
    | _ => rfl
  | _ => rfl

/-- The registers without an address are not reached by a store. -/
theorem sameHidden_storeLoc (v : Byte) (l : Loc) : SameHidden s (storeLoc s v l) := by
  rw [storeLoc_frame]
  exact ⟨rfl, rfl, rfl, rfl, rfl, rfl, rfl, rfl⟩

/-! ## The frame of a host write -/

/-- A write to CMD reaches CMD and STATUS alone (R60, R61). -/
theorem writeCommand_frame (v : Byte) :
    writeCommand v s = { s with
      cmd := (writeCommand v s).cmd
      busy := (writeCommand v s).busy
      done := (writeCommand v s).done
      err := (writeCommand v s).err } := by
  obtain ⟨-, hw⟩ | ⟨-, -, hw⟩ | ⟨-, -, hw⟩ | ⟨-, -, hw⟩ := writeCommand_cases s v <;> rw [hw] <;> rfl

/-- No host write reaches the read-only registers (R58). -/
theorem hostWrite_readOnly (a : Addr) (v : Byte) :
    (hostWrite a v s).rcon = s.rcon ∧ (hostWrite a v s).round = s.round ∧ (hostWrite a v s).mic = s.mic := by
  obtain ⟨-, hw⟩ | ⟨-, -, hw⟩ | ⟨-, -, hw⟩ | ⟨-, -, -, hw⟩ := hostWrite_cases s a v <;> rw [hw]
  · exact ⟨rfl, rfl, rfl⟩
  · exact ⟨rfl, rfl, rfl⟩
  · rw [writeCommand_frame]
    exact ⟨rfl, rfl, rfl⟩
  · rw [storeLoc_frame]
    exact ⟨rfl, rfl, rfl⟩

/-- CMD and STATUS hold no data (R57 case 4). -/
theorem ne_status_and_cmd_of_isData {a : Addr} (h : Claims.isData a = true) : a ≠ statusAddr ∧ a ≠ cmdAddr := by
  constructor <;> rintro rfl <;> exact absurd h (by decide)

end Sys2Proof.Machine

open Sys2Proof Sys2Proof.Machine Sys2Proof.Claims

/-- Settles O7: the read is `hostRead`, which is the map wherever the rule gives its byte. -/
theorem readReturnsMappedByte : Obligations.ReadReturnsMappedByte := by
  intro s a d
  exact ⟨hostRead a s, s.draws + 1, exec_rd a d s, hostRead_eq_mapped s a⟩

/-- Settles O8: the write is a store at the address's location, and the map reads the store back by location. -/
theorem writeStoresDataByte : Obligations.WriteStoresDataByte := by
  intro s a v hidle hdata
  obtain ⟨hstatus, hcmd⟩ := ne_status_and_cmd_of_isData hdata
  refine ⟨_, exec_wr a v s, ?_⟩
  rw [hostWrite_data s a v hstatus hcmd hidle]
  simp only [mapped_endTransaction]
  simp only [mapped_eq_readLoc]
  refine ⟨readLoc_storeLoc_same s v ((isData_locOf a).trans hdata), ?_, sameHidden_storeLoc s v (locOf a)⟩
  intro b hb
  exact readLoc_storeLoc_of_ne s v (locOf_ne hb)

/-- Settles O9: a store at a location that holds no data leaves the state, and no case of a host write reaches a
read-only register. -/
theorem writeReadOnlyIgnored : Obligations.WriteReadOnlyIgnored := by
  refine ⟨?_, ?_, ?_⟩
  · intro s a v hidle hlow hhigh
    have hstatus : a ≠ statusAddr := by rintro rfl; exact absurd hlow (by decide)
    have hcmd : a ≠ cmdAddr := by rintro rfl; exact absurd hlow (by decide)
    have hdata : (locOf a).isData = false := by
      simp only [isData_locOf, isData, Bool.or_eq_false_iff, decide_eq_false_iff_not]
      omega
    refine ⟨Config.writeReturn s.draws a v (image s), s.draws + 1, ?_⟩
    rw [exec_wr, hostWrite_data s a v hstatus hcmd hidle, storeLoc_of_not_isData s v hdata]
    rfl
  · intro s d hidle
    have hbyte : hostRead 0x2B s = 0x00 := hostRead_eq_mapped s 0x2B (.inr hidle)
    refine ⟨s.draws + 1, ?_⟩
    rw [exec_rd, hbyte]
  · intro i s t hformat he
    cases i with
    | rd a d => cases (exec_rd a d s).symm.trans he; exact ⟨rfl, rfl, rfl⟩
    | wr a v => cases (exec_wr a v s).symm.trans he; exact hostWrite_readOnly s a v
    | _ => cases hformat

end

section
/-! Writes to STATUS and to CMD (20_memory.md R59, R60, R61): each outcome with its condition on the byte written. -/

namespace Sys2Proof.Machine

open Sys2Proof.Claims

variable {s : State} {v : Byte}

/-! ## The acknowledge -/

/-- Bit 1 of the byte decides about DONE (R59). -/
theorem doneAfterAck_eq (v : Byte) (done : Bool) : doneAfterAck v done = (done && !(v.toNat.testBit 1)) := by
  rw [doneAfterAck, BitVec.testBit_toNat]
  cases v.getLsbD 1 <;> cases done <;> rfl

/-- Bits 4 to 2 of a byte as a field are not 0 exactly if one of them is set. -/
theorem errField_ne_zero_iff (v : Byte) :
    v.extractLsb' 2 3 ≠ 0 ↔ (v.toNat.testBit 2 || v.toNat.testBit 3 || v.toNat.testBit 4) = true := by
  revert v
  decide

/-- Bits 4 to 2 of the byte decide about ERR (R59). -/
theorem errAfterAck_eq (v : Byte) (err : ErrCode) : errAfterAck v err =
    if v.toNat.testBit 2 || v.toNat.testBit 3 || v.toNat.testBit 4 then .none else err := by
  simp only [errAfterAck, errField_ne_zero_iff]

/-! ## The legal bytes -/

/-- The fifteen bytes of R86 are those that decode. -/
theorem decodeCommand_isOk_iff (v : Byte) : (decodeCommand v).isOk = true ↔ v ∈ legalBytes := by
  revert v
  decide

theorem exists_decodeCommand_ok (h : v ∈ legalBytes) : ∃ i, decodeCommand v = .ok i := by
  have hok := (decodeCommand_isOk_iff v).2 h
  cases hd : decodeCommand v with
  | ok i => exact ⟨i, rfl⟩
  | error e => simp [hd, Except.isOk, Except.toBool] at hok

theorem exists_decodeCommand_error (h : v ∉ legalBytes) : ∃ e, decodeCommand v = .error e := by
  have hok := mt (decodeCommand_isOk_iff v).1 h
  cases hd : decodeCommand v with
  | ok i => simp [hd, Except.isOk, Except.toBool] at hok
  | error e => exact ⟨e, rfl⟩

theorem decodeCommand_payload_iff (v : Byte) : decodeCommand v = .ok .payload ↔ v = 0x0C := by
  revert v
  decide

theorem decodeCommand_mic_iff (v : Byte) : decodeCommand v = .ok .mic ↔ v = 0x1D := by
  revert v
  decide

/-- LEN is out of range for PAYLOAD and for MIC only (R172). -/
theorem lenAccepted_eq_false_iff (i : Instr) (len : Byte) : lenAccepted i len = false ↔
    (i = .payload ∧ 64 < len.toNat) ∨ (i = .mic ∧ (len.toNat = 0 ∨ 64 < len.toNat)) := by
  cases i with
  | payload =>
    have hrange : lenAccepted .payload len = false ↔ ¬len.toNat ≤ 64 := decide_eq_false_iff_not
    simp [hrange]
  | mic =>
    have hrange : lenAccepted .mic len = false ↔ ¬(1 ≤ len.toNat ∧ len.toNat ≤ 64) := decide_eq_false_iff_not
    simp only [hrange, reduceCtorEq, false_and, false_or, true_and]
    omega
  | _ => simp [lenAccepted]

/-- The same in terms of the command byte (R60 case 3). -/
theorem lenAccepted_eq_false_iff_byte {i : Instr} (h : decodeCommand v = .ok i) (len : Byte) :
    lenAccepted i len = false ↔
      (v = 0x0C ∧ 64 < len.toNat) ∨ (v = 0x1D ∧ (len.toNat = 0 ∨ 64 < len.toNat)) := by
  have hpayload : v = 0x0C ↔ i = .payload := by
    rw [← decodeCommand_payload_iff, h, Except.ok.injEq]
  have hmic : v = 0x1D ↔ i = .mic := by
    rw [← decodeCommand_mic_iff, h, Except.ok.injEq]
  rw [lenAccepted_eq_false_iff, hpayload, hmic]

/-! ## The outcomes of a write to CMD -/

/-- The first error is recorded as it is (R173). -/
theorem raiseError_of_no_error (h : s.err = .none) (e : ErrCode) : raiseError e s = { s with err := e } := by
  rw [raiseError, h]
  rfl

/-- R60 case 1. -/
theorem writeCommand_of_error (h : s.err ≠ .none) (v : Byte) : writeCommand v s = s := by
  simp [writeCommand, h]

/-- R60 case 2. -/
theorem writeCommand_of_illegal (herr : s.err = .none) (hv : v ∉ legalBytes) :
    writeCommand v s = { s with err := .illegalCmd } := by
  obtain ⟨e, hdecode⟩ := exists_decodeCommand_error hv
  rw [← raiseError_of_no_error herr]
  simp [writeCommand, herr, hdecode]

/-- R60 case 3. -/
theorem writeCommand_of_bad_len {i : Instr} (herr : s.err = .none) (hdecode : decodeCommand v = .ok i)
    (hlen : lenAccepted i s.len = false) : writeCommand v s = { s with err := .lenRange } := by
  rw [← raiseError_of_no_error herr]
  simp [writeCommand, herr, hdecode, hlen]

/-- R60 case 4. -/
theorem writeCommand_of_accepted {i : Instr} (herr : s.err = .none) (hdecode : decodeCommand v = .ok i)
    (hlen : lenAccepted i s.len = true) : writeCommand v s = accept v s := by
  simp [writeCommand, herr, hdecode, hlen]

end Sys2Proof.Machine

open Sys2Proof Sys2Proof.Machine Sys2Proof.Claims

/-- Settles O10: a write to STATUS is the acknowledge, busy or not. -/
theorem statusWriteClears : Obligations.StatusWriteClears := by
  intro s v
  refine ⟨Config.writeReturn s.draws 0x28 v (image s), s.draws + 1, ?_⟩
  have hwrite : hostWrite 0x28 v s = acknowledge v s := hostWrite_status s v
  rw [exec_wr, hwrite, acknowledge, doneAfterAck_eq, errAfterAck_eq]
  rfl

/-- Settles O12: with the core idle the write is `writeCommand`, whose cases are those of the rule. -/
theorem commandWriteOutcome : Obligations.CommandWriteOutcome := by
  intro s v hidle
  have hexec : exec (.wr 0x27 v) s =
      .next (endTransaction (Config.writeReturn s.draws 0x27 v (image s)) (writeCommand v s)) := by
    rw [exec_wr, ← hostWrite_cmd s v hidle]
    rfl
  refine ⟨Config.writeReturn s.draws 0x27 v (image s), s.draws + 1, ?_, ?_, ?_, ?_⟩
  · intro herr
    rw [hexec, writeCommand_of_error herr, endTransaction]
  · intro herr hillegal
    rw [hexec, writeCommand_of_illegal herr hillegal, endTransaction]
  · intro herr hlegal hbadLen
    obtain ⟨i, hdecode⟩ := exists_decodeCommand_ok hlegal
    have hlen := (lenAccepted_eq_false_iff_byte hdecode s.len).2 hbadLen
    rw [hexec, writeCommand_of_bad_len herr hdecode hlen, endTransaction]
  · intro herr hlegal hgoodLen
    obtain ⟨i, hdecode⟩ := exists_decodeCommand_ok hlegal
    have hlen : lenAccepted i s.len = true :=
      Bool.of_not_eq_false fun hlen => hgoodLen ((lenAccepted_eq_false_iff_byte hdecode s.len).1 hlen)
    rw [hexec, writeCommand_of_accepted herr hdecode hlen, endTransaction, accept]

end

section
/-! The running command (20_memory.md R62, R63, R196). While BUSY = 1 the host reaches only DONE, ERR and what is not
the core's, and a command's effect does not depend on these: it may run at once or after any number of host turns. -/

namespace Sys2Proof.Machine

variable {s t : State}

/-! ## What a transaction changes while a command runs -/

/-- A host write while busy reaches DONE and ERR alone (R59, R63). -/
theorem hostWrite_frame_of_busy (h : s.busy = true) (a : Addr) (v : Byte) :
    hostWrite a v s = { s with done := (hostWrite a v s).done, err := (hostWrite a v s).err } := by
  by_cases ha : a = statusAddr
  · rw [ha, hostWrite_status]
    rfl
  · rw [hostWrite_busy s a v ha h]
    rfl

/-- A transaction while busy: DONE, ERR and the record of the transaction (R63). -/
theorem exec_transaction_of_busy {i : Instr} (h : s.busy = true) (hformat : i.format = .bus) :
    ∃ t, exec i s = .next t ∧ t =
      { s with done := t.done, err := t.err, reads := t.reads, returned := t.returned, draws := t.draws } := by
  cases i with
  | rd a d => exact ⟨_, exec_rd a d s, rfl⟩
  | wr a v =>
    refine ⟨_, exec_wr a v s, ?_⟩
    rw [hostWrite_frame_of_busy h]
    rfl
  | _ => cases hformat

/-! ## What a command does not depend on -/

/-- `s` with the fields that the host's turns can change while BUSY = 1 taken from `t`: DONE, ERR and what is not the
core's (R59, R63). -/
def withHostSide (t s : State) : State :=
  { s with
    done := t.done, err := t.err, program := t.program, schedule := t.schedule, reads := t.reads,
    returned := t.returned, draws := t.draws }

@[simp] theorem withHostSide_withHostSide (u t s : State) : withHostSide u (withHostSide t s) = withHostSide u s := rfl

theorem chainAfter_withHostSide (ark : Bool) (t s : State) (n : Nat) :
    chainAfter ark (withHostSide t s) n = chainAfter ark s n := by
  induction n with
  | zero => rfl
  | succ n ih =>
    rw [chainAfter, chainAfter, ih]
    rfl

theorem payloadRun_withHostSide (ark : Bool) (t s : State) :
    payloadRun ark (withHostSide t s) = withHostSide t (payloadRun ark s) := by
  have hcount : blockCount (withHostSide t s) = blockCount s := rfl
  rw [payloadRun_eq, payloadRun_eq, hcount]
  cases blockCount s <;> rfl

theorem micRun_withHostSide (ark : Bool) (t s : State) :
    micRun ark (withHostSide t s) = withHostSide t (micRun ark s) := by
  have hcount : blockCount (withHostSide t s) = blockCount s := rfl
  have htag : micTag ark (withHostSide t s) = micTag ark s := by
    rw [micTag, micTag, chainAfter_withHostSide]
    rfl
  rw [micRun_eq, micRun_eq, htag, hcount, chainAfter_withHostSide]
  rfl

/-- A command's effect commutes with whatever the host did to these fields. -/
theorem commandEffect_withHostSide (i : Instr) (t s : State) :
    commandEffect i (withHostSide t s) = withHostSide t (commandEffect i s) := by
  cases i with
  | aesenc k =>
    simp only [commandEffect, aesRun_eq]
    cases k <;> rfl
  | payload => exact payloadRun_withHostSide Config.initialArk t s
  | mic => exact micRun_withHostSide Config.initialArk t s
  | ldkey k => cases k <;> rfl
  | _ => rfl

/-! ## The turns up to the sequencer's -/

/-- A run whose first step answers `t` goes on from `t`. -/
theorem run_succ_of_step (n : Nat) (h : step s = .next t) :
    Host.Core.run Sys2Proof.core (n + 1) s = Host.Core.run Sys2Proof.core n t := by
  have hstep : Sys2Proof.core.step s = .next t := h
  simp only [Host.Core.run, hstep]

/-- The host issues nothing only at the end of its program. -/
theorem hostIssue_eq_none {v : Byte} {p : List HostOp} (h : hostIssue v p = none) : p = [] := by
  cases p with
  | nil => rfl
  | cons o rest => cases o <;> cases h

/-- The host's turn while a command runs: a transaction, or nothing at the end of the program. -/
theorem step_host_of_busy {sch : List Turn} (h : s.schedule = .host :: sch) (hbusy : s.busy = true) :
    ∃ t, step s = .next t ∧ t.schedule = sch ∧ t = withHostSide t s := by
  cases hissue : hostIssue (hostRead statusAddr s) s.program with
  | none => exact ⟨_, step_host_done (.inl h) (hostIssue_eq_none hissue), rfl, rfl⟩
  | some next =>
    obtain ⟨i, rest⟩ := next
    obtain ⟨t, hexec, ht⟩ := exec_transaction_of_busy (s := { s with program := rest, schedule := sch }) hbusy
      (hostIssue_format hissue)
    have hprogram : t.program = rest := congrArg State.program ht
    have hschedule : t.schedule = sch := congrArg State.schedule ht
    refine ⟨t, (step_host (.inl h) hissue).trans hexec, hschedule, ht.trans ?_⟩
    rw [withHostSide, hprogram, hschedule]

/-- The sequencer's turn: the command runs on the registers of any state `s` that the host's turns started from. -/
theorem step_sequencer_withHostSide {i : Instr} {sch : List Turn} (ht : t = withHostSide t s)
    (hturn : SequencerTurn t sch) (hbusy : s.busy = true) (hdecode : decodeCommand s.cmd = .ok i) :
    step t = .next (complete (withHostSide { t with schedule := sch } (commandEffect i s))) := by
  have hbusy' : t.busy = true := (congrArg State.busy ht).trans hbusy
  have hdecode' : decodeCommand t.cmd = .ok i := (congrArg (decodeCommand ∘ State.cmd) ht).trans hdecode
  have hside : { t with schedule := sch } = withHostSide { t with schedule := sch } s :=
    congrArg (fun u : State => { u with schedule := sch }) ht
  rw [step_sequencer hturn hbusy' hdecode', exec_command _ _ (decodeCommand_format _ i hdecode), hside,
    commandEffect_withHostSide]
  rfl

/-- Up to and including the sequencer's next turn, with no reset before it: the host's turns have changed only the
fields of `withHostSide`, and the command has had its effect on the registers it started from. -/
theorem run_to_sequencer_turn {i : Instr} (hbusy : s.busy = true) (hdecode : decodeCommand s.cmd = .ok i)
    (sch : List Turn) (t : State) (hsch : t.schedule = sch) (ht : t = withHostSide t s)
    (hreset : ∀ r ∈ sch.take (turnsLeft sch), r ≠ .reset) :
    ∃ u, Host.Core.run Sys2Proof.core (turnsLeft sch + 1) t =
      .next (complete (withHostSide u (commandEffect i s))) := by
  induction sch generalizing t with
  | nil =>
    have hbusy' : t.busy = true := (congrArg State.busy ht).trans hbusy
    exact ⟨_, run_succ_of_step 0 (step_sequencer_withHostSide ht (.inr ⟨hsch, rfl, hbusy'⟩) hbusy hdecode)⟩
  | cons turn rest ih =>
    cases turn with
    | sequencer => exact ⟨_, run_succ_of_step 0 (step_sequencer_withHostSide ht (.inl hsch) hbusy hdecode)⟩
    | reset => exact absurd rfl (hreset .reset (by simp [turnsLeft]))
    | host =>
      have hbusy' : t.busy = true := (congrArg State.busy ht).trans hbusy
      obtain ⟨t', hstep, hsch', ht'⟩ := step_host_of_busy hsch hbusy'
      rw [ht, withHostSide_withHostSide] at ht'
      obtain ⟨u, hrun⟩ := ih t' hsch' ht' fun r hr => hreset r (by simp [turnsLeft, hr])
      exact ⟨u, (run_succ_of_step _ hstep).trans hrun⟩

end Sys2Proof.Machine

open Sys2Proof Sys2Proof.Machine

/-- Settles O6: the two rules for the sequencer's turn. -/
theorem stepRunsCommand : Obligations.StepRunsCommand := by
  intro s sch
  exact ⟨fun hturn hbusy i hdecode => step_sequencer hturn hbusy hdecode, step_sequencer_idle⟩

/-- Settles O35: the frame of a transaction while busy. -/
theorem busyTransactionsDisturbNothing : Obligations.BusyTransactionsDisturbNothing := by
  intro i s hbusy hformat
  exact exec_transaction_of_busy hbusy hformat

/-- Settles O36: the host's turns up to the sequencer's change only fields with which a command's effect commutes, and
of the core's own among these, DONE and ERR, the completion sets DONE again. -/
theorem acceptedCommandCompletes : Obligations.AcceptedCommandCompletes := by
  intro s i hbusy hdecode hreset
  obtain ⟨u, hrun⟩ := run_to_sequencer_turn hbusy hdecode s.schedule s rfl rfl hreset
  exact ⟨_, _, hrun, exec_command i s (decodeCommand_format s.cmd i hdecode), rfl, rfl, rfl⟩

end

section
/-! The two encodings of 30_encoding.md R81 to R87: the encoder and the decoder of each format are inverse to one
another. -/

namespace Sys2Proof

/-! ## Transactions -/

/-- The three fields of a transaction, W, A and D, are read where the encoder puts them (R81). -/
theorem decodeTransaction_append (w : BitVec 1) (a : Addr) (d : Byte) :
    decodeTransaction (w ++ a ++ d) = if w.getLsbD 0 then .wr a d else .rd a d := by
  have hkind : BitVec.getLsbD (w ++ a ++ d) 15 = w.getLsbD 0 := by
    simp only [BitVec.getLsbD_append]
    rfl
  have haddr : BitVec.extractLsb' 8 7 (w ++ a ++ d) = a :=
    (BitVec.extractLsb'_append_eq_of_le (Nat.le_refl 8)).trans BitVec.extractLsb'_append_eq_right
  have hdata : BitVec.extractLsb' 0 8 (w ++ a ++ d) = d := BitVec.extractLsb'_append_eq_right
  rw [decodeTransaction, hkind, haddr, hdata]

@[simp] theorem decodeTransaction_read (a : Addr) (d : Byte) : decodeTransaction (0#1 ++ a ++ d) = .rd a d :=
  decodeTransaction_append 0#1 a d

@[simp] theorem decodeTransaction_write (a : Addr) (v : Byte) : decodeTransaction (1#1 ++ a ++ v) = .wr a v :=
  decodeTransaction_append 1#1 a v

/-- A 16-bit word is its three fields, one after the other (R81). -/
theorem transactionFields_append (w : BusWord) :
    BitVec.ofBool (w.getLsbD 15) ++ w.extractLsb' 8 7 ++ w.extractLsb' 0 8 = w := by
  have hkind : BitVec.ofBool (w.getLsbD 15) = w.extractLsb' 15 1 := by
    ext k hk
    obtain rfl : k = 0 := by omega
    simp
  have hhigh : w.extractLsb' 15 1 ++ w.extractLsb' 8 7 = w.extractLsb' 8 8 :=
    BitVec.extractLsb'_append_extractLsb'_eq_extractLsb' rfl
  rw [hkind, hhigh]
  exact BitVec.extractLsb'_append_extractLsb'

/-- Every 16-bit word is the encoding of the transaction it decodes to (R87). -/
theorem encodeTransaction_decodeTransaction (w : BusWord) : encodeTransaction (decodeTransaction w) = some w := by
  have hfields := transactionFields_append w
  rw [decodeTransaction]
  cases hkind : w.getLsbD 15 <;> rw [hkind] at hfields
  · exact congrArg some hfields
  · exact congrArg some hfields

/-- A transaction has a word, and the word decodes to it (R81). -/
theorem exists_word_of_transaction {i : Instr} (h : i.format = .bus) :
    ∃ w, encodeTransaction i = some w ∧ decodeTransaction w = i := by
  cases i with
  | rd a d => exact ⟨_, rfl, decodeTransaction_read a d⟩
  | wr a v => exact ⟨_, rfl, decodeTransaction_write a v⟩
  | _ => cases h

/-! ## Command bytes -/

/-- A command is encoded as one byte, and the byte decodes to it (R83, R85). -/
theorem exists_byte_of_command {i : Instr} (h : i.format = .cmd) : ∃ b, encode i = [b] ∧ decodeCommand b = .ok i := by
  cases i with
  | rd a d => cases h
  | wr a v => cases h
  | ldkey k => cases k <;> exact ⟨_, rfl, rfl⟩
  | aesenc k => cases k <;> exact ⟨_, rfl, rfl⟩
  | _ => exact ⟨_, rfl, rfl⟩

/-- No two bytes decode to one command, and a byte that decodes is the one its command is encoded as (R85). -/
theorem encode_of_decodeCommand {v : Byte} {i : Instr} (h : decodeCommand v = .ok i) : encode i = [v] := by
  have hall : ∀ v : Byte, (decodeCommand v).toOption.all (encode · == [v]) = true := by decide
  have hv := hall v
  rw [h] at hv
  exact beq_iff_eq.1 hv

end Sys2Proof

open Sys2Proof Sys2Proof.Machine Sys2Proof.Claims

/-- Settles O2: each format apart, a transaction by its three fields and a command by its one byte. -/
theorem decodeOfEncode : Obligations.DecodeOfEncode := by
  intro i rest
  cases hformat : i.format with
  | bus =>
    cases i with
    | rd a d => simp [encode, decode]
    | wr a v => simp [encode, decode]
    | _ => cases hformat
  | cmd =>
    obtain ⟨b, hencode, hdecode⟩ := exists_byte_of_command hformat
    rw [hencode, List.singleton_append, decode, hdecode]

/-- Settles O3: the two formats. -/
theorem encodeOfDecode : Obligations.EncodeOfDecode :=
  ⟨encodeTransaction_decodeTransaction, fun v i h => ⟨decodeCommand_format v i h, encode_of_decodeCommand h⟩⟩

/-- Settles O1. -/
theorem legalCommandBytes : Obligations.LegalCommandBytes := decodeCommand_isOk_iff

/-- Settles O4: each word and byte is decoded. -/
theorem specWordsDecode : Obligations.SpecWordsDecode := by
  unfold Obligations.SpecWordsDecode
  decide
end

section
/-! Programs (30_encoding.md R90): what a sequence of transactions and each pseudo-instruction of the table issue. -/

namespace Sys2Proof.Machine

/-- `o` is one transaction, and it decodes to `i`. -/
def Issues (o : HostOp) (i : Instr) : Prop := ∃ w : BusWord, o = .transaction w ∧ decodeTransaction w = i

/-- A sequence of transactions is issued as it stands, one for one (R12, R80). -/
theorem hostProgram_issues (p : List Instr) (h : ∀ i ∈ p, i.format = .bus) : List.Forall₂ Issues (hostProgram p) p := by
  induction p with
  | nil => exact .nil
  | cons i p ih =>
    obtain ⟨w, hencode, hdecode⟩ := exists_word_of_transaction (h i List.mem_cons_self)
    have hcons : hostProgram (i :: p) = .transaction w :: hostProgram p := by simp [hostProgram, hencode]
    rw [hcons]
    exact .cons ⟨w, rfl, hdecode⟩ (ih fun j hj => h j (List.mem_cons_of_mem i hj))

/-- The same, by position. -/
theorem hostProgram_getElem {p : List Instr} (h : ∀ i ∈ p, i.format = .bus) :
    (hostProgram p).length = p.length ∧ ∀ (j : Nat) (hj : j < p.length), ∃ w : BusWord,
      (hostProgram p)[j]? = some (.transaction w) ∧ decodeTransaction w = p[j] := by
  obtain ⟨hlength, hget⟩ := List.forall₂_iff_get.1 (hostProgram_issues p h)
  refine ⟨hlength, fun j hj => ?_⟩
  obtain ⟨w, hw, hdecode⟩ := hget j (hlength ▸ hj) hj
  exact ⟨w, List.getElem?_eq_some_iff.2 ⟨_, hw⟩, hdecode⟩

/-- The word of `WR CMD, b`. -/
def commandWriteWord (b : Byte) : BusWord := 1#1 ++ cmdAddr ++ b

@[simp] theorem decodeTransaction_commandWriteWord (b : Byte) :
    decodeTransaction (commandWriteWord b) = .wr cmdAddr b :=
  decodeTransaction_write cmdAddr b

/-- `CMD` is the write of the command's byte to CMD. -/
theorem pseudoCmd_of_decodeCommand {b : Byte} {i : Instr} (h : decodeCommand b = .ok i) :
    pseudoCmd i = [.transaction (commandWriteWord b)] := by
  rw [pseudoCmd, decodeCommand_format b i h, encode_of_decodeCommand h]
  rfl

/-- `RUN` is `CMD` and then `WAIT`. -/
theorem pseudoRun_of_decodeCommand {b : Byte} {i : Instr} (h : decodeCommand b = .ok i) :
    pseudoRun i = [.transaction (commandWriteWord b), .wait] := by
  rw [pseudoRun, pseudoCmd_of_decodeCommand h]
  rfl

/-- The low and the high byte of a 16-bit number, as bits and by division. -/
theorem ofNat_toNat_low (n : BitVec 16) : BitVec.ofNat 8 n.toNat = n.extractLsb' 0 8 := by
  rfl

theorem ofNat_toNat_high (n : BitVec 16) : BitVec.ofNat 8 (n.toNat / 256) = n.extractLsb' 8 8 := by
  apply BitVec.eq_of_toNat_eq
  rw [BitVec.toNat_ofNat, BitVec.extractLsb'_toNat, Nat.shiftRight_eq_div_pow]

end Sys2Proof.Machine

open Sys2Proof Sys2Proof.Machine

/-- Settles O41: `CMD` and `RUN` by the command's one byte, the others by what a sequence of transactions issues. -/
theorem pseudoInstructionsExpand : Obligations.PseudoInstructionsExpand := by
  refine ⟨fun i hformat => ?_, fun base bytes => ?_, fun base n => ?_, fun n => ?_⟩
  · obtain ⟨b, -, hdecode⟩ := exists_byte_of_command hformat
    exact ⟨commandWriteWord b, b, pseudoCmd_of_decodeCommand hdecode, decodeTransaction_commandWriteWord b, hdecode,
      pseudoRun_of_decodeCommand hdecode⟩
  · obtain ⟨hlength, hget⟩ := hostProgram_getElem (p := bytes.mapIdx fun j b => .wr (base + BitVec.ofNat 7 j) b)
      fun i hi => by
        obtain ⟨j, hj, rfl⟩ := List.mem_mapIdx.1 hi
        rfl
    refine ⟨by simpa [pseudoWrn] using hlength, fun j => ?_⟩
    obtain ⟨w, hw, hdecode⟩ := hget j.val (by simp)
    exact ⟨w, hw, by simpa using hdecode⟩
  · obtain ⟨hlength, hget⟩ := hostProgram_getElem (p := (List.range n).map fun j => .rd (base + BitVec.ofNat 7 j) 0x00)
      (by simp [Instr.format])
    refine ⟨by simpa [pseudoRdn] using hlength, fun j => ?_⟩
    obtain ⟨w, hw, hdecode⟩ := hget j.val (by simp)
    exact ⟨w, hw, by simpa using hdecode⟩
  · refine ⟨_, _, rfl, ?_, ?_⟩
    · rw [← ofNat_toNat_low]
      exact decodeTransaction_write 0x24 _
    · rw [← ofNat_toNat_high]
      exact decodeTransaction_write 0x25 _

end

section
/-! The reads of WAIT and ACK (30_encoding.md R90): each is one read of STATUS, and the byte it returns decides what is
left of the host's program. -/

namespace Sys2Proof.Machine

open Sys2Proof.Claims

variable {s : State} {rest : List HostOp} {sch : List Turn}

/-! ## The byte read -/

/-- The map reads STATUS at 0x28 (R50). -/
theorem mapped_status : mapped s 0x28 = statusByte s := (statusByte_eq s).symm

/-- Bit 0 of STATUS is BUSY (R30). -/
theorem testBit_statusByte_busy : (statusByte s).toNat.testBit 0 = s.busy := by
  rw [statusByte]
  cases s.err <;> cases s.done <;> cases s.busy <;> rfl

/-- Acknowledging with the STATUS byte itself clears DONE, which bit 1 shows (R59, R178). -/
@[simp] theorem doneAfterAck_statusByte : doneAfterAck (statusByte s) s.done = false := by
  rw [statusByte]
  cases s.err <;> cases s.done <;> cases s.busy <;> rfl

/-- It clears ERR, which bits 4 to 2 show. -/
@[simp] theorem errAfterAck_statusByte : errAfterAck (statusByte s) s.err = .none := by
  rw [statusByte]
  cases s.err <;> cases s.done <;> cases s.busy <;> rfl

/-! ## The turn of the host that takes it -/

/-- `s` after a read of STATUS in a turn of the host that leaves program `p` and schedule `sch` (R56). -/
def afterStatusRead (p : List HostOp) (sch : List Turn) (s : State) : State :=
  { s with
    program := p, schedule := sch, returned := statusByte s, reads := statusByte s :: s.reads, draws := s.draws + 1 }

/-- The host's turn with a read of STATUS to issue. -/
theorem step_statusRead {p : List HostOp} (hturn : HostTurn s sch)
    (hissue : hostIssue (hostRead statusAddr s) s.program = some (.rd statusAddr 0x00, p)) :
    step s = .next (afterStatusRead p sch s) := by
  rw [step_host hturn hissue, exec_rd, hostRead_status]
  rfl

/-- The host's turn in a WAIT: the WAIT is left if BUSY = 1. -/
theorem step_wait (hturn : HostTurn s sch) (hprogram : s.program = .wait :: rest) :
    step s = .next (afterStatusRead (if s.busy then .wait :: rest else rest) sch s) := by
  refine step_statusRead hturn ?_
  rw [hprogram, hostRead_status, hostIssue, afterWaitRead, ← BitVec.testBit_toNat, testBit_statusByte_busy]

/-- The host's turn in an ACK: the write back of the byte read is left. -/
theorem step_ack (hturn : HostTurn s sch) (hprogram : s.program = .ack :: rest) :
    step s = .next (afterStatusRead (.transaction (statusWriteWord (statusByte s)) :: rest) sch s) := by
  refine step_statusRead hturn ?_
  rw [hprogram, hostRead_status]
  rfl

@[simp] theorem decodeTransaction_statusWriteWord (v : Byte) :
    decodeTransaction (statusWriteWord v) = .wr statusAddr v :=
  decodeTransaction_write statusAddr v

/-- The host's turn with a write to STATUS next in its program, as an ACK leaves it (R59). -/
theorem step_statusWrite {v : Byte} (hturn : HostTurn s sch)
    (hprogram : s.program = .transaction (statusWriteWord v) :: rest) :
    ∃ b, step s = .next { s with
      done := doneAfterAck v s.done, err := errAfterAck v s.err, program := rest, schedule := sch, returned := b,
      draws := s.draws + 1 } := by
  refine ⟨Config.writeReturn s.draws statusAddr v (image s), ?_⟩
  rw [step_transaction hturn hprogram, decodeTransaction_statusWriteWord, exec_wr, hostWrite_status]
  rfl

/-- Whose turn it is depends on the schedule and on BUSY alone. -/
theorem HostTurn.of_eq {t : State} (h : HostTurn s sch) (hschedule : t.schedule = s.schedule) (hbusy : t.busy = s.busy) :
    HostTurn t sch := by
  rwa [HostTurn, hschedule, hbusy]

end Sys2Proof.Machine

open Sys2Proof Sys2Proof.Machine Sys2Proof.Claims

/-- Settles O42: bit 0 of the byte read is BUSY. -/
theorem waitRepeatsWhileBusy : Obligations.WaitRepeatsWhileBusy := by
  intro s rest sch hturn hprogram
  refine ⟨s.draws + 1, ?_⟩
  rw [mapped_status, testBit_statusByte_busy]
  exact step_wait hturn hprogram

/-- Settles O11: the read and the write back, and the acknowledge with the byte read clears DONE and ERR. -/
theorem ackClearsDoneAndErr : Obligations.AckClearsDoneAndErr := by
  refine ⟨fun s rest sch hturn hprogram => ?_, fun s rest mid sch hprogram hturn hturn' => ?_⟩
  · refine ⟨statusWriteWord (statusByte s), s.draws + 1, ?_, ?_⟩ <;> rw [mapped_status]
    · exact decodeTransaction_statusWriteWord _
    · exact step_ack hturn hprogram
  · have hread := step_ack hturn hprogram
    obtain ⟨b, hwrite⟩ := step_statusWrite (v := statusByte s) (rest := rest)
      (s := afterStatusRead (.transaction (statusWriteWord (statusByte s)) :: rest) mid s) (hturn'.of_eq rfl rfl) rfl
    refine ⟨b, s.draws + 2, ?_⟩
    rw [run_succ_of_step 1 hread, run_succ_of_step 0 hwrite, mapped_status]
    simp [Host.Core.run, afterStatusRead]

end

section
/-! The run of a WAIT (30_encoding.md R90, R62, R196): every step but the last is one of four, each uses up a turn of the
schedule or completes the command, and the host's turn with the core idle ends it. -/

namespace Sys2Proof.Machine

variable {s t u : State} {rest : List HostOp}

/-! ## What every command leaves alone -/

@[simp] theorem commandEffect_program (i : Instr) : (commandEffect i s).program = s.program := by
  rw [commandEffect_frame]

@[simp] theorem commandEffect_schedule (i : Instr) : (commandEffect i s).schedule = s.schedule := by
  rw [commandEffect_frame]

@[simp] theorem commandEffect_reads (i : Instr) : (commandEffect i s).reads = s.reads := by
  rw [commandEffect_frame]

@[simp] theorem commandEffect_err (i : Instr) : (commandEffect i s).err = s.err := by
  rw [commandEffect_frame]

/-! ## The steps before the last -/

/-- A step from `s` to `t` that leaves the WAIT next in the host's program. -/
inductive WaitStep (s : State) : State → Prop
  /-- The host reads BUSY = 1. -/
  | poll {sch : List Turn} (hschedule : s.schedule = .host :: sch) (hbusy : s.busy = true) :
    WaitStep s (afterStatusRead s.program sch s)
  /-- The running command completes. -/
  | completion {sch : List Turn} {i : Instr} (hturn : SequencerTurn s sch) (hbusy : s.busy = true)
    (hdecode : decodeCommand s.cmd = .ok i) : WaitStep s (complete (commandEffect i { s with schedule := sch }))
  /-- The sequencer has its turn with no command running. -/
  | idle {sch : List Turn} (hschedule : s.schedule = .sequencer :: sch) (hidle : s.busy = false) :
    WaitStep s { s with schedule := sch }
  /-- A reset. -/
  | reset {sch : List Turn} (hschedule : s.schedule = .reset :: sch) :
    WaitStep s (resetEvent { s with schedule := sch })

/-- The steps that a WAIT and the turns it still has to run can take: the schedule, and the completion after it. -/
def waitBound (s : State) : Nat := s.schedule.length + s.busy.toNat

namespace WaitStep

theorem program_eq (h : WaitStep s t) : t.program = s.program := by
  cases h with
  | completion => exact commandEffect_program _
  | _ => rfl

theorem schedule_eq (h : WaitStep s t) : t.schedule = s.schedule.tail := by
  cases h with
  | completion hturn =>
    refine (commandEffect_schedule _).trans ?_
    obtain hschedule | ⟨hschedule, rfl, -⟩ := hturn <;> rw [hschedule] <;> rfl
  | poll hschedule | idle hschedule | reset hschedule => rw [hschedule]; rfl

/-- What the reads of these steps returned had BUSY = 1. -/
theorem reads_eq (h : WaitStep s t) :
    ∃ polls, t.reads = polls ++ s.reads ∧ ∀ p ∈ polls, p.toNat.testBit 0 = true := by
  cases h with
  | poll _ hbusy => exact ⟨[statusByte s], rfl, by simpa [hbusy] using testBit_statusByte_busy (s := s)⟩
  | completion => exact ⟨[], commandEffect_reads _, by simp⟩
  | _ => exact ⟨[], rfl, by simp⟩

/-- Each of these steps uses up a turn, or completes the command when there is none left. -/
theorem waitBound_lt (h : WaitStep s t) : waitBound t < waitBound s := by
  rw [waitBound, waitBound, h.schedule_eq]
  cases h with
  | completion _ hbusy =>
    rw [complete_busy, hbusy, List.length_tail]
    exact Nat.lt_succ_of_le (Nat.sub_le _ _)
  | poll hschedule | idle hschedule =>
    rw [hschedule]
    exact Nat.add_lt_add_right (Nat.lt_succ_self _) _
  | reset hschedule =>
    rw [hschedule]
    exact Nat.lt_add_right _ (Nat.lt_succ_self _)

end WaitStep

/-- With a WAIT next in the program: its last read, from an idle core, or one of the steps before it. -/
theorem step_of_wait (hprogram : s.program = .wait :: rest)
    (hlegal : s.busy = true → ∃ i, decodeCommand s.cmd = .ok i) :
    (∃ sch, s.busy = false ∧ step s = .next (afterStatusRead rest sch s)) ∨
      ∃ t, step s = .next t ∧ WaitStep s t := by
  have host {sch : List Turn} (hturn : HostTurn s sch) (hidle : s.busy = false) :
      step s = .next (afterStatusRead rest sch s) := by
    rw [step_wait hturn hprogram, hidle]
    rfl
  have sequencer {sch : List Turn} (hturn : SequencerTurn s sch) (hbusy : s.busy = true) :
      ∃ t, step s = .next t ∧ WaitStep s t := by
    obtain ⟨i, hdecode⟩ := hlegal hbusy
    refine ⟨_, ?_, .completion hturn hbusy hdecode⟩
    rw [step_sequencer hturn hbusy hdecode, exec_command _ _ (decodeCommand_format _ i hdecode)]
  cases hschedule : s.schedule with
  | nil =>
    cases hbusy : s.busy with
    | false => exact .inl ⟨[], rfl, host (.inr ⟨hschedule, rfl, hbusy⟩) hbusy⟩
    | true => exact .inr (sequencer (.inr ⟨hschedule, rfl, hbusy⟩) hbusy)
  | cons turn sch =>
    cases turn with
    | host =>
      cases hbusy : s.busy with
      | false => exact .inl ⟨sch, rfl, host (.inl hschedule) hbusy⟩
      | true =>
        refine .inr ⟨_, ?_, .poll hschedule hbusy⟩
        rw [step_wait (.inl hschedule) hprogram, hbusy, hprogram]
        rfl
    | sequencer =>
      cases hbusy : s.busy with
      | false => exact .inr ⟨_, step_sequencer_idle hschedule hbusy, .idle hschedule hbusy⟩
      | true => exact .inr (sequencer (.inl hschedule) hbusy)
    | reset => exact .inr ⟨_, step_reset hschedule, .reset hschedule⟩

/-! ## The run -/

/-- Where a property of the states of a WAIT is kept by the steps before its last, the run of the WAIT ends with a read
from an idle core with that property. -/
theorem run_wait {Kept : State → Prop} (hlegal : ∀ t, Kept t → t.busy = true → ∃ i, decodeCommand t.cmd = .ok i)
    (hkept : ∀ t u, Kept t → step t = .next u → WaitStep t u → Kept u) (s : State) (hs : Kept s)
    (hprogram : s.program = .wait :: rest) :
    ∃ (n : Nat) (u : State) (sch : List Turn) (polls : List Byte), n ≤ waitBound s + 1 ∧
      Host.Core.run Sys2Proof.core n s = .next (afterStatusRead rest sch u) ∧ Kept u ∧ u.busy = false ∧
      u.reads = polls ++ s.reads ∧ ∀ p ∈ polls, p.toNat.testBit 0 = true := by
  obtain ⟨sch, hidle, hstep⟩ | ⟨t, hstep, hwait⟩ := step_of_wait hprogram (hlegal s hs)
  · exact ⟨1, s, sch, [], by omega, run_succ_of_step 0 hstep, hs, hidle, rfl, by simp⟩
  · have hlt := hwait.waitBound_lt
    obtain ⟨n, u, sch, polls, hn, hrun, hu, hidle, hreads, hpolls⟩ :=
      run_wait hlegal hkept t (hkept s t hs hstep hwait) (hwait.program_eq.trans hprogram)
    obtain ⟨polls', hreads', hpolls'⟩ := hwait.reads_eq
    refine ⟨n + 1, u, sch, polls ++ polls', by omega, (run_succ_of_step n hstep).trans hrun, hu, hidle, ?_, ?_⟩
    · rw [hreads, hreads', List.append_assoc]
    · exact List.forall_mem_append.2 ⟨hpolls, hpolls'⟩
termination_by waitBound s

/-- Under the invariant a running command is legal (R60). -/
theorem exists_command_of_busy (h : CoreInv s) (hbusy : s.busy = true) : ∃ i, decodeCommand s.cmd = .ok i := by
  obtain ⟨haccepted, -⟩ := h.running hbusy
  cases hdecode : decodeCommand s.cmd with
  | ok i => exact ⟨i, rfl⟩
  | error e => simp [hdecode] at haccepted

end Sys2Proof.Machine

open Sys2Proof Sys2Proof.Machine

/-- Settles O43: every step keeps the invariant, and under it a running command can complete. -/
theorem waitEndsWhenIdle : Obligations.WaitEndsWhenIdle := by
  intro s rest hinv hprogram
  obtain ⟨n, u, sch, polls, hn, hrun, -, hidle, hreads, hpolls⟩ :=
    run_wait (fun _ => exists_command_of_busy) (fun _ _ h hstep _ => h.step hstep) s hinv hprogram
  have hbound : waitBound s ≤ s.schedule.length + 1 := Nat.add_le_add_left (Bool.toNat_le s.busy) _
  refine ⟨n, _, statusByte u, polls, by omega, hrun, rfl, hidle, ?_, testBit_statusByte_busy.trans hidle, hpolls⟩
  rw [List.cons_append, ← hreads]
  rfl

end

section
/-! RUN of a command (30_encoding.md R90, R60 to R62): the write to CMD is accepted, the host polls, and the command has
its effect on the registers the write found. -/

namespace Sys2Proof.Machine

variable {s t u : State} {b : Byte} {i : Instr}

/-! ## What a command's effect does not depend on -/

/-- `s` with CMD, STATUS and what is not the core's taken from `c`. Unlike `withHostSide`, which serves a command already
running, it covers the acceptance, which sets CMD and BUSY (R61). -/
def withControl (c s : State) : State :=
  { s with
    cmd := c.cmd, busy := c.busy, done := c.done, err := c.err, program := c.program, schedule := c.schedule,
    reads := c.reads, returned := c.returned, draws := c.draws }

theorem aesRun_withControl (ark : Bool) (k : KeySel) (c s : State) :
    aesRun ark k (withControl c s) = withControl c (aesRun ark k s) := by
  rw [aesRun_eq, aesRun_eq]
  cases k <;> rfl

theorem payloadRun_withControl (ark : Bool) (c s : State) :
    payloadRun ark (withControl c s) = withControl c (payloadRun ark s) := by
  have hcount : blockCount (withControl c s) = blockCount s := rfl
  rw [payloadRun_eq, payloadRun_eq, hcount]
  cases blockCount s <;> rfl

theorem chainAfter_withControl (ark : Bool) (c s : State) (n : Nat) :
    chainAfter ark (withControl c s) n = chainAfter ark s n := by
  induction n with
  | zero => rfl
  | succ n ih => exact congrArg (fun chain => cipherBlock ark s.keyNwk (xorBlock (messageBlock (n + 1) s) chain)) ih

theorem micRun_withControl (ark : Bool) (c s : State) : micRun ark (withControl c s) = withControl c (micRun ark s) := by
  have htag : micTag ark (withControl c s) = micTag ark s := by
    rw [micTag, chainAfter_withControl]
    rfl
  rw [micRun_eq, micRun_eq, htag, chainAfter_withControl]
  rfl

/-- A command's effect is the same whatever these fields hold. -/
theorem commandEffect_withControl (i : Instr) (c s : State) :
    commandEffect i (withControl c s) = withControl c (commandEffect i s) := by
  cases i with
  | aesenc k => exact aesRun_withControl Config.initialArk k c s
  | payload => exact payloadRun_withControl Config.initialArk c s
  | mic => exact micRun_withControl Config.initialArk c s
  | ldkey k => cases k <;> rfl
  | _ => rfl

/-! ## The states of the WAIT in a RUN -/

/-- The registers of `s`, with what is not the core's taken from `t`. -/
def withOutside (t s : State) : State :=
  { s with
    program := t.program, schedule := t.schedule, reads := t.reads, returned := t.returned, draws := t.draws }

/-- Registers stay those of `r` while only what is not the core's changes. -/
theorem eq_withOutside_trans {r : State} (ht : t = withOutside t r) (hu : u = withOutside u t) : u = withOutside u r := by
  rw [ht] at hu
  exact hu

/-- The command of byte `b`, accepted with the registers of `s`, is running in `t`. -/
def Running (b : Byte) (s t : State) : Prop := t = withOutside t (accept b s)

/-- It has completed in `t`. -/
def Completed (i : Instr) (b : Byte) (s t : State) : Prop :=
  t = withOutside t { complete (commandEffect i s) with cmd := b }

/-- The completion of the running command has its effect on the registers of `s`. -/
theorem Running.completed (h : Running b s t) (i : Instr) (sch : List Turn) :
    Completed i b s (complete (commandEffect i { t with schedule := sch })) := by
  have hcmd : t.cmd = b := congrArg State.cmd h
  have herr : t.err = s.err := (congrArg State.err h :)
  have hcontrol : { t with schedule := sch } = withControl { t with schedule := sch } s := by
    rw [h]
    rfl
  rw [Completed, hcontrol, commandEffect_withControl]
  simp only [withOutside, withControl, complete, hcmd, herr, commandEffect_err]

/-- What holds during the WAIT of a RUN without a reset. -/
structure InRun (i : Instr) (b : Byte) (s t : State) : Prop where
  noReset : ∀ r ∈ t.schedule, r ≠ .reset
  phase : Running b s t ∨ Completed i b s t

theorem InRun.running_of_busy (h : InRun i b s t) (hdecode : decodeCommand b = .ok i) (hbusy : t.busy = true) :
    Running b s t ∧ decodeCommand t.cmd = .ok i := by
  obtain hrunning | hcompleted := h.phase
  · have hcmd : t.cmd = b := congrArg State.cmd hrunning
    exact ⟨hrunning, hcmd ▸ hdecode⟩
  · have hidle : t.busy = false := congrArg State.busy hcompleted
    simp [hidle] at hbusy

/-- The steps before the last keep it: the completion ends the first phase, and the others change no register. -/
theorem InRun.step (h : InRun i b s t) (hdecode : decodeCommand b = .ok i) (hstep : WaitStep t u) : InRun i b s u where
  noReset r hr := h.noReset r (List.mem_of_mem_tail (hstep.schedule_eq ▸ hr))
  phase := by
    cases hstep with
    | poll | idle => exact h.phase.imp (eq_withOutside_trans · rfl) (eq_withOutside_trans · rfl)
    | reset hschedule => exact absurd rfl (h.noReset .reset (by simp [hschedule]))
    | completion _ hbusy hdecode' =>
      obtain ⟨hrunning, hdecode''⟩ := h.running_of_busy hdecode hbusy
      cases hdecode'.symm.trans hdecode''
      exact .inr (hrunning.completed i _)

/-! ## The turns up to the write to CMD, and the write -/

/-- A run in two parts. -/
theorem run_add {m : Nat} (n : Nat) (h : Host.Core.run Sys2Proof.core m s = .next t) :
    Host.Core.run Sys2Proof.core (m + n) s = Host.Core.run Sys2Proof.core n t := by
  induction m generalizing s with
  | zero =>
    cases h
    rw [Nat.zero_add]
  | succ m ih =>
    cases hstep : Machine.step s with
    | next s' =>
      rw [run_succ_of_step m hstep] at h
      rw [Nat.add_right_comm, run_succ_of_step _ hstep, ih h]
    | fault | refused => simp [Host.Core.run, core, hstep] at h

/-- With the core idle and no reset to come, only turns of the sequencer, which do nothing, are before the host's. -/
theorem run_to_host_turn (hidle : s.busy = false) (hreset : ∀ r ∈ s.schedule, r ≠ .reset) :
    ∃ (n : Nat) (mid sch : List Turn), Host.Core.run Sys2Proof.core n s = .next { s with schedule := mid } ∧
      HostTurn { s with schedule := mid } sch ∧ n + sch.length ≤ s.schedule.length ∧ ∀ r ∈ sch, r ≠ .reset := by
  generalize hschedule : s.schedule = schedule at hreset
  induction schedule generalizing s with
  | nil => exact ⟨0, [], [], by rw [schedule_nil hschedule]; rfl, .inr ⟨rfl, rfl, hidle⟩, by simp, by simp⟩
  | cons turn rest ih =>
    have hreset' : ∀ r ∈ rest, r ≠ .reset := fun r hr => hreset r (List.mem_cons_of_mem _ hr)
    cases turn with
    | host => exact ⟨0, .host :: rest, rest, by rw [← hschedule]; rfl, .inl rfl, by simp, hreset'⟩
    | sequencer =>
      obtain ⟨n, mid, sch, hrun, hturn, hn, hsch⟩ := ih (s := { s with schedule := rest }) hidle rfl hreset'
      exact ⟨n + 1, mid, sch, (run_succ_of_step n (step_sequencer_idle hschedule hidle)).trans hrun, hturn,
        by rw [List.length_cons]; omega, hsch⟩
    | reset => exact absurd rfl (hreset .reset List.mem_cons_self)

/-- The host's turn with an acceptable command to write (R60 case 4, R61). -/
theorem step_commandWrite {sch : List Turn} {rest : List HostOp} (hturn : HostTurn s sch)
    (hprogram : s.program = .transaction (commandWriteWord b) :: rest) (hidle : s.busy = false) (herr : s.err = .none)
    (hdecode : decodeCommand b = .ok i) (hlen : lenAccepted i s.len = true) :
    ∃ t, step s = .next t ∧ Running b s t ∧ t.program = rest ∧ t.schedule = sch ∧ t.reads = s.reads := by
  refine ⟨endTransaction (Config.writeReturn s.draws cmdAddr b (image s))
    (accept b { s with program := rest, schedule := sch }), ?_, rfl, rfl, rfl, rfl⟩
  have hwrite : hostWrite cmdAddr b { s with program := rest, schedule := sch } =
      accept b { s with program := rest, schedule := sch } :=
    (hostWrite_cmd { s with program := rest, schedule := sch } b hidle).trans
      (writeCommand_of_accepted herr hdecode hlen)
  rw [step_transaction hturn hprogram, decodeTransaction_commandWriteWord, exec_wr, hwrite]
  rfl

/-- LEN in range as the rules say it (R60 case 3, R172). -/
theorem lenAccepted_of_range {len : Byte} (hpayload : i = .payload → len.toNat ≤ 64)
    (hmic : i = .mic → 1 ≤ len.toNat ∧ len.toNat ≤ 64) : lenAccepted i len = true := by
  refine Bool.of_not_eq_false fun hlen => ?_
  obtain ⟨hi, hlen⟩ | ⟨hi, hlen⟩ := (lenAccepted_eq_false_iff i len).1 hlen
  · exact Nat.not_lt.2 (hpayload hi) hlen
  · have := hmic hi
    omega

end Sys2Proof.Machine

open Sys2Proof Sys2Proof.Machine

/-- Settles O44: in the WAIT the command is running or completed, and the WAIT ends with the core idle. -/
theorem runCompletesCommand : Obligations.RunCompletesCommand := by
  intro s i b rest hidle herr hdecode hpayload hmic hprogram hreset
  rw [pseudoRun_of_decodeCommand hdecode, List.cons_append, List.singleton_append] at hprogram
  obtain ⟨m, mid, sch, hrunTurn, hturn, hm, hschedule⟩ := run_to_host_turn hidle hreset
  obtain ⟨t, hstep, hrunning, hwait, rfl, hreads⟩ :=
    step_commandWrite hturn hprogram hidle herr hdecode (lenAccepted_of_range hpayload hmic)
  obtain ⟨n, u, sch', polls, hn, hrunWait, hu, hidle', hreads', hpolls⟩ :=
    run_wait (Kept := InRun i b s) (fun t ht hbusy => ⟨i, (ht.running_of_busy hdecode hbusy).2⟩)
      (fun t u ht _ hstep => ht.step hdecode hstep) t ⟨hschedule, .inl hrunning⟩ hwait
  have hcompleted : Completed i b s u := hu.phase.resolve_left fun hrunning => by
    have hbusy : u.busy = true := congrArg State.busy hrunning
    simp [hidle'] at hbusy
  have hpolled : u.reads = polls ++ s.reads := hreads'.trans (congrArg (polls ++ ·) hreads)
  have hbound : waitBound t ≤ t.schedule.length + 1 := Nat.add_le_add_left (Bool.toNat_le t.busy) _
  refine ⟨m + (n + 1), afterStatusRead rest sch' u, complete (commandEffect i s), statusByte u, polls, by omega, ?_,
    exec_command i s (decodeCommand_format b i hdecode), ?_, testBit_statusByte_busy.trans hidle', hpolls⟩
  · rw [run_add _ hrunTurn, run_succ_of_step n hstep, hrunWait]
  · rw [List.cons_append, ← hpolled]
    exact eq_withOutside_trans hcompleted rfl

end

section
/-! Arithmetic in GF(2^8) modulo 0x11B (40_aes_round_ops.md R101, R104): the model's doubling and its substitution table
against the field product. -/

namespace Sys2Proof.Machine

open Sys2Proof.Claims

/-! ## Doubling -/

/-- Doubling with the conditional XOR of 0x1B is the field product by 2 (R101). -/
theorem gfMul_two (b : Byte) : gfMul 0x02 b = mul2 b := by
  revert b
  decide +kernel

theorem gfMul_three (b : Byte) : gfMul 0x03 b = mul3 b := by
  revert b
  decide +kernel

/-- RCON after `n` key steps is the round constant number `n + 1` (R101). -/
theorem keyAfter_rcon (key : Block) (n : Nat) : (keyAfter key n).2 = roundConstant n := by
  induction n with
  | zero => rfl
  | succ n ih => rw [keyAfter_succ, roundConstant, ih, gfMul_two, mul2]

/-! ## The substitution table -/

/-- The map that undoes the affine map of the substitution box. -/
def undoSboxAffine (y : Byte) : Byte := y.rotateLeft 1 ^^^ y.rotateLeft 3 ^^^ y.rotateLeft 6 ^^^ 0x05

theorem sboxAffine_undoSboxAffine (y : Byte) : sboxAffine (undoSboxAffine y) = y := by
  revert y
  decide +kernel

/-- The inverse in the field as the table has it: the entry with the affine map undone. -/
def tableInverse (x : Byte) : Byte := undoSboxAffine (sbox x)

/-- The table of R104 holds the affine map of that inverse. -/
theorem sbox_eq_sboxAffine (x : Byte) : sbox x = sboxAffine (tableInverse x) :=
  (sboxAffine_undoSboxAffine (sbox x)).symm

/-- It is the inverse for the product modulo 0x11B. -/
theorem gfMul_tableInverse {x : Byte} (h : x ≠ 0x00) : gfMul x (tableInverse x) = 0x01 := by
  revert x
  decide +kernel

theorem tableInverse_zero : tableInverse 0x00 = 0x00 := by decide

theorem tableInverse_involutive : Function.Involutive tableInverse := by
  unfold Function.Involutive
  decide +kernel

/-- The table is a permutation, since the inverse of the inverse is the byte itself. -/
theorem sbox_injective : Function.Injective sbox := fun _ _ h =>
  tableInverse_involutive.injective (congrArg undoSboxAffine h)

theorem sbox_ne_self (x : Byte) : sbox x ≠ x := by
  revert x
  decide +kernel

end Sys2Proof.Machine

open Sys2Proof Sys2Proof.Machine Sys2Proof.Claims

/-- Settles O18: with the affine map undone, the table holds the field's inverse, which is its own inverse. -/
theorem sboxIsAffineInverse : Obligations.SboxIsAffineInverse := by
  refine ⟨?_, fun a ha => ⟨tableInverse a, gfMul_tableInverse ha, sbox_eq_sboxAffine a⟩,
    fun a b h => sbox_injective h, sbox_ne_self⟩
  rw [sbox_eq_sboxAffine, tableInverse_zero]

end

section
/-! The micro-operations one at a time (40_aes_round_ops.md R100 to R111): their command bytes, and their effect byte by
byte. -/

namespace Sys2Proof.Machine

open Sys2Proof.Claims

/-! ## Command bytes -/

/-- A byte that decodes to a command is the only one that does, as it is the command's encoding (R85). -/
theorem onlyByte_of_decodeCommand {i : Instr} {b : Byte} (h : decodeCommand b = .ok i) : OnlyByte i b := by
  refine fun v => ⟨fun hv => ?_, fun hv => hv ▸ h⟩
  have hbytes : [v] = [b] := (encode_of_decodeCommand hv).symm.trans (encode_of_decodeCommand h)
  exact List.singleton_inj.1 hbytes

/-- A byte that does not decode is illegal (R86). -/
theorem illegalByte_of_decodeCommand {e : DecodeError} {v : Byte} (h : decodeCommand v = .error e) : IllegalByte v := by
  rw [IllegalByte, h]
  rfl

/-! ## Sequences -/

theorem execAll_nil (s : State) : execAll [] s = .next s := rfl

/-- A command in a sequence takes effect and the rest goes on from there. -/
theorem execAll_command {i : Instr} (h : i.format = .cmd) (rest : List Instr) (s : State) :
    execAll (i :: rest) s = execAll rest (complete (commandEffect i s)) := by
  rw [execAll, exec_command i s h]

/-- A sequence in two parts. -/
theorem execAll_append {p : List Instr} {s t : State} (h : execAll p s = .next t) (q : List Instr) :
    execAll (p ++ q) s = execAll q t := by
  induction p generalizing s with
  | nil =>
    cases h
    rfl
  | cons i p ih =>
    obtain ⟨u, hu⟩ := exec_answers_next i s
    rw [execAll, hu] at h
    rw [List.cons_append, execAll, hu]
    exact ih h

/-! ## MIXCOLUMNS -/

/-- In each row of the circulant the coefficients 2, 3, 1, 1 add up to 1; here `y` is `x` doubled. -/
theorem xor_circulant (x y : Byte) :
    y ^^^ (y ^^^ x) ^^^ x ^^^ x = x ∧ x ^^^ y ^^^ (y ^^^ x) ^^^ x = x ∧
    x ^^^ x ^^^ y ^^^ (y ^^^ x) = x ∧ (y ^^^ x) ^^^ x ^^^ x ^^^ y = x := by
  refine ⟨?_, ?_, ?_, ?_⟩ <;>
  · ext k hk
    simp only [BitVec.getElem_xor]
    cases x[k] <;> cases y[k] <;> rfl

theorem mixColumn_equal (x : Byte) (r : Fin 4) : (mixColumn x x x x)[r] = x := by
  obtain ⟨h0, h1, h2, h3⟩ := xor_circulant x (xtime x)
  match r with
  | 0 => exact h0
  | 1 => exact h1
  | 2 => exact h2
  | 3 => exact h3

/-- A column of four equal bytes stays as it is (R107). -/
theorem mixColumns_get_equal {m : AesState} {c : Fin 4} {x : Byte} (h : ∀ r : Fin 4, m[r][c] = x) (r : Fin 4) :
    (mixColumns m)[r][c] = x := by
  have h0 : m[0][c] = x := h 0
  have h1 : m[1][c] = x := h 1
  have h2 : m[2][c] = x := h 2
  have h3 : m[3][c] = x := h 3
  rw [mixColumns_get, h0, h1, h2, h3, mixColumn_equal]

end Sys2Proof.Machine

open Sys2Proof Sys2Proof.Machine

/-- Settles O15: the state is the block in the order of R100. -/
theorem ldstateLoadsColumns : Obligations.LdstateLoadsColumns :=
  ⟨onlyByte_of_decodeCommand rfl, illegalByte_of_decodeCommand rfl, fun s =>
    ⟨_, exec_command .ldstate s rfl, blockToState_get s.block⟩⟩

/-- Settles O16: the block is the state in the order of R100. -/
theorem ststateStoresColumns : Obligations.StstateStoresColumns :=
  ⟨onlyByte_of_decodeCommand rfl, illegalByte_of_decodeCommand rfl, fun s =>
    ⟨_, exec_command .ststate s rfl, stateToBlock_get s.state⟩⟩

/-- Settles O17: byte by byte; O18 says what the table holds. -/
theorem subbytesSubstitutes : Obligations.SubbytesSubstitutes :=
  ⟨onlyByte_of_decodeCommand rfl, illegalByte_of_decodeCommand rfl, fun s =>
    ⟨_, exec_command .subbytes s rfl, subBytes_get s.state⟩⟩

/-- Settles O19: a byte is read `r` columns to the right, around the end, and four such moves go once around. -/
theorem shiftrowsRotates : Obligations.ShiftrowsRotates := by
  refine ⟨onlyByte_of_decodeCommand rfl, illegalByte_of_decodeCommand rfl, fun s =>
    ⟨_, exec_command .shiftrows s rfl, shiftRows_get s.state⟩, fun s => ?_⟩
  simp only [List.replicate, execAll_command (i := .shiftrows) rfl, execAll_nil, commandEffect, shiftRowsOp, complete,
    setState, shiftRows_four]

/-- Settles O20: the model's `mul2` and `mul3` are the field products by 2 and 3. -/
theorem mixcolumnsMultiplies : Obligations.MixcolumnsMultiplies := by
  refine ⟨onlyByte_of_decodeCommand rfl, illegalByte_of_decodeCommand rfl, fun s =>
    ⟨_, exec_command .mixcolumns s rfl, fun c => ?_⟩⟩
  have hcolumn := fun r : Fin 4 => mixColumns_get s.state r c
  simp only [gfMul_two, gfMul_three]
  exact ⟨hcolumn 0, hcolumn 1, hcolumn 2, hcolumn 3, fun x hx => mixColumns_get_equal hx⟩

/-- Settles O21: the next key word by word, and RCON doubled. -/
theorem keystepDerivesNextKey : Obligations.KeystepDerivesNextKey := by
  refine ⟨onlyByte_of_decodeCommand rfl, illegalByte_of_decodeCommand rfl, fun s =>
    ⟨_, _, _, exec_command .keystep s rfl, ?_⟩⟩
  obtain ⟨h0, h1, h2, h3⟩ := nextRoundKey_head s.rk s.rcon
  exact ⟨h0, h1, h2, h3, nextRoundKey_tail s.rk s.rcon, (gfMul_two s.rcon).symm, BitVec.toNat_add s.round 1⟩

/-- Settles O22: the same key XORed twice cancels. -/
theorem addroundkeyXorsKey : Obligations.AddroundkeyXorsKey := by
  refine ⟨onlyByte_of_decodeCommand rfl, illegalByte_of_decodeCommand rfl, fun s =>
    ⟨_, exec_command .addroundkey s rfl, addRoundKey_get s.rk s.state⟩, fun s => ?_⟩
  simp only [execAll_command (i := .addroundkey) rfl, execAll_nil, commandEffect, addRoundKeyOp, complete, setState,
    addRoundKey_twice]

/-- Settles O23: two bytes, one for each key register. -/
theorem ldkeyLoadsSelectedKey : Obligations.LdkeyLoadsSelectedKey :=
  ⟨onlyByte_of_decodeCommand rfl, onlyByte_of_decodeCommand rfl, fun s =>
    ⟨exec_command (.ldkey .app) s rfl, exec_command (.ldkey .nwk) s rfl⟩⟩

/-- Settles O24: the command is a move between two registers. -/
theorem strkCopiesRoundKey : Obligations.StrkCopiesRoundKey :=
  ⟨onlyByte_of_decodeCommand rfl, illegalByte_of_decodeCommand rfl, fun s => exec_command .strk s rfl⟩

end

section
/-! The key schedule (40_aes_round_ops.md R108, R113): the list of words that grows by one word at a time, against the
round key that KEYSTEP replaces in place. -/

namespace Sys2Proof.Machine

open Sys2Proof.Claims

variable (key : Block)

/-! ## The schedule as a sequence of words -/

/-- What stands for a word that the list does not have; no word that is read is such. -/
abbrev noWord : Quad := #v[0x00, 0x00, 0x00, 0x00]

/-- Word `i` of the schedule, from a list just long enough. -/
def scheduleWord (i : Nat) : Quad := (scheduleWords key i).getD i noWord

theorem length_scheduleWords (n : Nat) : (scheduleWords key n).length = n + 4 := by
  induction n with
  | zero => rfl
  | succ n ih => rw [scheduleWords, List.length_append, ih, List.length_singleton, Nat.add_right_comm]

/-- More words leave the earlier ones as they are. -/
theorem getD_scheduleWords_add {m i : Nat} (hi : i < m + 4) (n : Nat) :
    (scheduleWords key (m + n)).getD i noWord = (scheduleWords key m).getD i noWord := by
  induction n with
  | zero => rfl
  | succ n ih =>
    have hlen := length_scheduleWords key (m + n)
    rw [← Nat.add_assoc, scheduleWords, List.getD_append _ _ _ _ (by omega), ih]

/-- Word `i` is the same in every list that has it. -/
theorem getD_scheduleWords {n i : Nat} (hi : i < n + 4) : (scheduleWords key n).getD i noWord = scheduleWord key i := by
  obtain hni | hin := Nat.le_total n i
  · rw [scheduleWord, ← Nat.add_sub_cancel' hni, getD_scheduleWords_add key (by omega)]
  · rw [scheduleWord, ← Nat.add_sub_cancel' hin, getD_scheduleWords_add key (by omega)]

/-- The rotated and substituted word with a round constant (R108). -/
def substitutedWord (w : Quad) (rcon : Byte) : Quad := #v[sbox w[1] ^^^ rcon, sbox w[2], sbox w[3], sbox w[0]]

/-- The recurrence of the schedule. -/
theorem scheduleWord_add_four (n : Nat) : scheduleWord key (n + 4) = xorQuad (scheduleWord key n)
    (if n % 4 = 0 then substitutedWord (scheduleWord key (n + 3)) (roundConstant (n / 4))
     else scheduleWord key (n + 3)) := by
  have hlen := length_scheduleWords key n
  have hlast : scheduleWord key (n + 4) = nextWord (scheduleWords key n) := by
    rw [← getD_scheduleWords key (n := n + 1) (by omega), scheduleWords, ← hlen]
    simp
  have hold : (scheduleWords key n).getD (n + 4 - 4) noWord = scheduleWord key n := getD_scheduleWords key (by omega)
  have hprev : (scheduleWords key n).getD (n + 4 - 1) noWord = scheduleWord key (n + 3) :=
    getD_scheduleWords key (by omega)
  have hmod : (n + 4) % 4 = n % 4 := by omega
  have hdiv : (n + 4) / 4 - 1 = n / 4 := by omega
  simp only [hlast, nextWord, hlen, hold, hprev, hmod, hdiv, substitutedWord]

/-! ## The round key in place -/

theorem getElem_keyWord (k : Block) (w j : Fin 4) : (keyWord k w)[j] = k[4 * w.val + j.val] := by
  simp [keyWord]

/-- Two words are equal if their bytes are. -/
theorem quad_ext {x y : Quad} (h : ∀ j : Fin 4, x[j] = y[j]) : x = y := Vector.ext fun j hj => h ⟨j, hj⟩

theorem getElem_xorQuad (x y : Quad) (j : Fin 4) : (xorQuad x y)[j] = x[j] ^^^ y[j] := by
  simp [xorQuad]

/-- The first word of the next round key (R108). -/
theorem keyWord_nextRoundKey_zero (k : Block) (c : Byte) :
    keyWord (nextRoundKey k c) 0 = xorQuad (keyWord k 0) (substitutedWord (keyWord k 3) c) := by
  have htemp : keyTemp k c = substitutedWord (keyWord k 3) c := by simp [keyTemp, substitutedWord, keyWord]
  rw [← htemp]
  refine quad_ext fun j => ?_
  fin_cases j <;> simp [keyWord, nextRoundKey]

/-- Each later word of the next round key (R108). -/
theorem keyWord_nextRoundKey_succ (k : Block) (c : Byte) (w : Fin 3) :
    keyWord (nextRoundKey k c) w.succ = xorQuad (keyWord k w.succ) (keyWord (nextRoundKey k c) w.castSucc) := by
  refine quad_ext fun j => ?_
  have hbyte := nextRoundKey_tail k c ⟨4 * w.val + j.val, by omega⟩
  have hindex : 4 * w.succ.val + j.val = 4 * w.val + j.val + 4 := by rw [Fin.val_succ]; omega
  simp only [getElem_xorQuad, getElem_keyWord, hindex, Fin.val_castSucc]
  exact hbyte

/-- Word `w + 1` of round key `n + 1` by the recurrence. -/
theorem scheduleWord_later (n : Nat) (w : Fin 3) : scheduleWord key (4 * (n + 1) + w.succ.val) =
    xorQuad (scheduleWord key (4 * n + w.succ.val)) (scheduleWord key (4 * (n + 1) + w.castSucc.val)) := by
  have hmod : ¬(4 * n + w.succ.val) % 4 = 0 := by rw [Fin.val_succ]; omega
  have h := scheduleWord_add_four key (4 * n + w.succ.val)
  rw [if_neg hmod] at h
  have h1 : 4 * (n + 1) + w.succ.val = 4 * n + w.succ.val + 4 := by omega
  have h2 : 4 * (n + 1) + w.castSucc.val = 4 * n + w.succ.val + 3 := by rw [Fin.val_succ, Fin.val_castSucc]; omega
  rw [h1, h2, h]

/-- The first word of round key `n + 1` by the recurrence. -/
theorem scheduleWord_first (n : Nat) : scheduleWord key (4 * (n + 1)) =
    xorQuad (scheduleWord key (4 * n)) (substitutedWord (scheduleWord key (4 * n + 3)) (roundConstant n)) := by
  have h := scheduleWord_add_four key (4 * n)
  rw [if_pos (Nat.mul_mod_right 4 n), Nat.mul_div_cancel_left n (by decide)] at h
  exact h

/-- Words 0 to 3 are the key. -/
theorem keyWord_eq_scheduleWord (w : Fin 4) : keyWord key w = scheduleWord key w.val := by
  rw [← getD_scheduleWords key (n := 0) (by omega)]
  refine quad_ext fun j => ?_
  fin_cases w <;> fin_cases j <;> simp [keyWord, scheduleWords]

/-- Round key `n` in place is four words of the schedule (R113). -/
theorem keyWord_keyAfter (n : Nat) (w : Fin 4) :
    keyWord (keyAfter key n).1 w = scheduleWord key (4 * n + w.val) := by
  induction n generalizing w with
  | zero =>
    rw [Nat.mul_zero, Nat.zero_add]
    exact keyWord_eq_scheduleWord key w
  | succ n ih =>
    rw [keyAfter_succ, keyAfter_rcon]
    induction w using Fin.induction with
    | zero =>
      rw [keyWord_nextRoundKey_zero, ih, ih]
      exact (scheduleWord_first key n).symm
    | succ w ihw => rw [keyWord_nextRoundKey_succ, ih, ihw, scheduleWord_later]

/-- Byte `j` of a round key lies in its word `j / 4`, for the key in place and for the schedule. -/
theorem getElem_eq_keyWord (k : Block) {j : Nat} (hj : j < 16) :
    k[j] = (keyWord k ⟨j / 4, by omega⟩)[j % 4]'(Nat.mod_lt _ (by decide)) := by
  simp [keyWord, Nat.div_add_mod]

theorem getElem_roundKey (n : Nat) {j : Nat} (hj : j < 16) :
    (roundKey key n)[j] = (scheduleWord key (4 * n + j / 4))[j % 4]'(Nat.mod_lt _ (by decide)) := by
  rw [← getD_scheduleWords key (n := 4 * n) (by omega)]
  simp [roundKey, noWord]

/-- The round key in place is the standard's (R113). -/
theorem keyAfter_key (n : Nat) : (keyAfter key n).1 = roundKey key n :=
  Vector.ext fun j hj => by rw [getElem_eq_keyWord, keyWord_keyAfter, getElem_roundKey]

/-! ## The commands -/

/-- The state after LDKEY.k and `n` KEYSTEPs (R108, R110). -/
theorem execAll_ldkey_keysteps (k : KeySel) (n : Nat) (s : State) :
    execAll (.ldkey k :: List.replicate n .keystep) s = .next (complete
      (setKey (roundKey (keyReg k s) n) (roundConstant n) (BitVec.ofNat 4 n) s)) := by
  rw [← keyAfter_key, ← keyAfter_rcon (keyReg k s)]
  induction n with
  | zero => exact execAll_command rfl [] s
  | succ n ih =>
    rw [List.replicate_succ', ← List.cons_append, execAll_append ih, execAll_command rfl, execAll_nil, keyAfter_succ,
      BitVec.ofNat_add]
    rfl

end Sys2Proof.Machine

open Sys2Proof Sys2Proof.Machine

/-- Settles O25: by the state after `n` KEYSTEPs, for each of the two keys. -/
theorem keystepsFollowStandardExpansion : Obligations.KeystepsFollowStandardExpansion := fun s n =>
  ⟨execAll_ldkey_keysteps .app n s, execAll_ldkey_keysteps .nwk n s⟩

end

section
/-! The block encryption (41_aes_encrypt.md R130 to R134): AES_RUN against its micro-operations issued one by one, and
against the cipher on flat blocks with a key schedule computed beforehand. -/

namespace Sys2Proof.Machine

open Sys2Proof.Claims

/-! ## One command after another -/

/-- A command neither reads nor writes BUSY and DONE. -/
theorem commandEffect_complete (i : Instr) (s : State) :
    commandEffect i (complete s) = complete (commandEffect i s) := by
  have hcontrol : complete s = withControl (complete s) s := rfl
  rw [hcontrol, commandEffect_withControl, commandEffect_frame]
  rfl

/-- The effects of commands one after the other. -/
def commandsEffect (p : List Instr) (s : State) : State := p.foldl (fun t i => commandEffect i t) s

theorem commandsEffect_append (p q : List Instr) (s : State) :
    commandsEffect (p ++ q) s = commandsEffect q (commandsEffect p s) := List.foldl_append

/-- From a completed state a sequence of commands ends in a completed state, with the commands' effects (R62). -/
theorem execAll_complete {p : List Instr} (h : ∀ i ∈ p, i.format = .cmd) (s : State) :
    execAll p (complete s) = .next (complete (commandsEffect p s)) := by
  induction p generalizing s with
  | nil => rfl
  | cons i p ih =>
    obtain ⟨hi, hp⟩ := List.forall_mem_cons.1 h
    rw [execAll_command hi, commandEffect_complete]
    exact ih hp (commandEffect i s)

/-- A sequence of commands has their effects; all but the last completion step leave nothing behind. -/
theorem execAll_commands {p : List Instr} (hne : p ≠ []) (h : ∀ i ∈ p, i.format = .cmd) (s : State) :
    execAll p s = .next (complete (commandsEffect p s)) := by
  cases p with
  | nil => exact absurd rfl hne
  | cons i p =>
    obtain ⟨hi, hp⟩ := List.forall_mem_cons.1 h
    rw [execAll_command hi, execAll_complete hp]
    rfl

/-- The commands of a full round, `n` times over, are `n` full rounds (R130). -/
theorem commandsEffect_rounds (n : Nat) (s : State) :
    commandsEffect (List.replicate n [Instr.subbytes, .shiftrows, .mixcolumns, .keystep, .addroundkey]).flatten s =
      fullRounds n s := by
  induction n generalizing s with
  | zero => rfl
  | succ n ih =>
    rw [List.replicate_succ, List.flatten_cons, commandsEffect_append, ih]
    rfl

/-- The sequence of R130 is AES_RUN with the initial key addition. -/
theorem commandsEffect_roundSequence (k : KeySel) (s : State) : commandsEffect (roundSequence k) s = aesRun true k s := by
  rw [roundSequence, commandsEffect_append, commandsEffect_append, commandsEffect_rounds]
  rfl

theorem execAll_roundSequence (k : KeySel) (s : State) :
    execAll (roundSequence k) s = .next (complete (aesRun true k s)) := by
  have hformat : ∀ i ∈ roundSequence k, i.format = .cmd := by cases k <;> decide
  have hne : roundSequence k ≠ [] := List.cons_ne_nil _ _
  rw [execAll_commands hne hformat, commandsEffect_roundSequence]

/-! ## The flat block in state order -/

/-- The flat block and the state agree on where a byte stands (R100). -/
theorem blockToState_eq_inStateOrder (b : Block) : blockToState b = inStateOrder b := by
  refine state_ext fun r c => ?_
  rw [blockToState_get]
  fin_cases r <;> fin_cases c <;> rfl

/-- The state from a flat block is determined byte by byte. -/
theorem eq_blockToState {m : AesState} {b : Block} (h : ∀ r c : Fin 4, m[r][c] = b[r.val + 4 * c.val]) :
    m = blockToState b :=
  state_ext fun r c => (h r c).trans (blockToState_get b r c).symm

theorem subBytes_blockToState (b : Block) : subBytes (blockToState b) = blockToState (fipsSubBytes b) :=
  eq_blockToState fun r c => by rw [subBytes_get, blockToState_get]; simp [fipsSubBytes]

/-- Moving row `r` by `r` columns is the list of old indices of R106. -/
theorem shiftRows_blockToState (b : Block) : shiftRows (blockToState b) = blockToState (fipsShiftRows b) := by
  refine eq_blockToState fun r c => ?_
  rw [shiftRows_get, blockToState_get]
  fin_cases r <;> fin_cases c <;> rfl

/-- The rows of the circulant, each from its coefficient 2 on, around the end (R107). -/
theorem mixColumn_get (a : Fin 4 → Byte) (r : Fin 4) : (mixColumn (a 0) (a 1) (a 2) (a 3))[r] =
    mul2 (a r) ^^^ mul3 (a (r + 1)) ^^^ a (r + 2) ^^^ a (r + 3) := by
  match r with
  | 0 => rfl
  | 1 => exact show a 0 ^^^ mul2 (a 1) ^^^ mul3 (a 2) ^^^ a 3 = mul2 (a 1) ^^^ mul3 (a 2) ^^^ a 3 ^^^ a 0 by ac_rfl
  | 2 => exact show a 0 ^^^ a 1 ^^^ mul2 (a 2) ^^^ mul3 (a 3) = mul2 (a 2) ^^^ mul3 (a 3) ^^^ a 0 ^^^ a 1 by ac_rfl
  | 3 => exact show mul3 (a 0) ^^^ a 1 ^^^ a 2 ^^^ mul2 (a 3) = mul2 (a 3) ^^^ mul3 (a 0) ^^^ a 1 ^^^ a 2 by ac_rfl

theorem mixColumns_get_from_row (m : AesState) (r c : Fin 4) : (mixColumns m)[r][c] =
    mul2 m[r][c] ^^^ mul3 m[r + 1][c] ^^^ m[r + 2][c] ^^^ m[r + 3][c] :=
  (mixColumns_get m r c).trans (mixColumn_get (fun r => m[r][c]) r)

/-- The flat block's MixColumns reads the column of the byte, from that byte on and around the end. -/
theorem getElem_fipsMixColumns (b : Block) (r c : Fin 4) : (fipsMixColumns b)[r.val + 4 * c.val] =
    mul2 (blockAt b r c) ^^^ mul3 (blockAt b (r + 1) c) ^^^ blockAt b (r + 2) c ^^^ blockAt b (r + 3) c := by
  have hentry (d r' : Fin 4) (hr : r' = r + d) : blockAt b r' c =
      b.toList.getD (4 * ((r.val + 4 * c.val) / 4) + (r.val + 4 * c.val + d.val) % 4) 0x00 := by
    have hindex : 4 * ((r.val + 4 * c.val) / 4) + (r.val + 4 * c.val + d.val) % 4 = r'.val + 4 * c.val := by
      rw [hr, Fin.val_add]
      omega
    rw [hindex]
    exact (getD_toList b ⟨r'.val + 4 * c.val, block_index_lt r' c⟩).symm
  rw [hentry 0 r (add_zero r).symm, hentry 1 (r + 1) rfl, hentry 2 (r + 2) rfl, hentry 3 (r + 3) rfl, ← gfMul_two,
    ← gfMul_three]
  exact Vector.getElem_ofFn _

theorem mixColumns_blockToState (b : Block) : mixColumns (blockToState b) = blockToState (fipsMixColumns b) :=
  eq_blockToState fun r c => by
    simp only [mixColumns_get_from_row, blockToState_get, getElem_fipsMixColumns, blockAt]

theorem addRoundKey_blockToState (k b : Block) : addRoundKey k (blockToState b) = blockToState (xorBlock b k) :=
  eq_blockToState fun r c => by
    rw [addRoundKey_get, blockToState_get]
    exact (xorBlock_get b k ⟨r.val + 4 * c.val, block_index_lt r c⟩).symm

/-! ## The cipher -/

variable (key b : Block)

theorem lastKey_eq : lastKey key = roundKey key 10 := by
  rw [lastKey, keyAfter_key]

/-- The rounds on the state are the standard's on the flat block (R134). -/
theorem stateAfter_blockToState (n : Nat) : stateAfter key (blockToState b) n = blockToState (fipsRounds key n b) := by
  induction n with
  | zero => rfl
  | succ n ih =>
    rw [stateAfter, ih, subBytes_blockToState, shiftRows_blockToState, mixColumns_blockToState, addRoundKey_blockToState,
      keyAfter_key, fipsRounds]

theorem firstState_eq : firstState true key b = blockToState (xorBlock b (roundKey key 0)) := by
  rw [← keyAfter_key]
  exact addRoundKey_blockToState key b

/-- STATE after AES_RUN is the AES-128 ciphertext in state order (R132, R134). -/
theorem cipherState_eq : cipherState true key b = blockToState (fipsEncrypt key b) := by
  rw [cipherState, firstState_eq, stateAfter_blockToState, subBytes_blockToState, shiftRows_blockToState,
    addRoundKey_blockToState, lastKey_eq, fipsEncrypt]

/-- BLOCK after AES_RUN is the AES-128 ciphertext (R134). -/
theorem cipherBlock_eq : cipherBlock true key b = fipsEncrypt key b := by
  rw [cipherBlock, cipherState_eq, stateToBlock_blockToState]

/-- What AES_RUN leaves in the registers it writes, in terms of the standard (R132). -/
theorem encrypted_eq (s : State) : encrypted true key b s = { s with
    block := fipsEncrypt key b, state := inStateOrder (fipsEncrypt key b), rk := roundKey key 10, rcon := 0x6C,
    round := 10 } := by
  rw [encrypted, cipherBlock_eq, cipherState_eq, lastKey_eq, blockToState_eq_inStateOrder]
  rfl

/-- AESENC.k with the initial key addition is AES_RUN(k) with it (R131). -/
theorem exec_aesenc (hark : Config.initialArk = true) (k : KeySel) (s : State) :
    exec (.aesenc k) s = .next (complete (aesRun true k s)) := by
  rw [← hark]
  exact exec_command (.aesenc k) s rfl

/-- AESENC.k in closed form: the registers it writes in terms of the standard, BUSY and DONE (R132). -/
theorem exec_aesenc_eq (hark : Config.initialArk = true) (k : KeySel) (s : State) :
    exec (.aesenc k) s = .next { s with
      block := fipsEncrypt (keyReg k s) s.block, state := inStateOrder (fipsEncrypt (keyReg k s) s.block),
      rk := roundKey (keyReg k s) 10, rcon := 0x6C, round := 10, busy := false, done := true } := by
  rw [exec_aesenc hark, aesRun_eq, encrypted_eq, complete]

end Sys2Proof.Machine

open Sys2Proof Sys2Proof.Machine

/-- Settles O26: the sequence in three parts, of which the middle one is nine times the same round. -/
theorem aesencIsRoundSequence : Obligations.AesencIsRoundSequence := fun hark =>
  ⟨onlyByte_of_decodeCommand rfl, onlyByte_of_decodeCommand rfl, fun k s =>
    ⟨_, exec_aesenc hark k s, execAll_roundSequence k s⟩⟩

/-- Settles O27: each step of the rounds commutes with the arrangement of the flat block as a state, and the round key
in place is the schedule's. -/
theorem aesencIsStandardCipher : Obligations.AesencIsStandardCipher := fun hark s =>
  ⟨exec_aesenc_eq hark .app s, exec_aesenc_eq hark .nwk s⟩

end

section
/-! The payload cipher (42_payload_cipher.md R140 to R143): PAYLOAD's closed form against the standard's keystream, and
PAYLOAD a second time. -/

namespace Sys2Proof.Machine

open Sys2Proof.Claims

variable (ark : Bool) (s : State)

/-! ## The keystream -/

/-- With the initial key addition, keystream block `i` is block A(i) encrypted as the standard does (R140, R141). -/
theorem keystreamBlock_eq (i : Nat) : keystreamBlock true i s = keystream s i :=
  cipherBlock_eq s.keyApp (counterBlock i s)

/-- The keystream is a function of KEY_APP, DEVADDR and FCNT (R140, R141). -/
theorem keystreamBlock_congr {s u : State} (hkey : u.keyApp = s.keyApp) (haddr : u.devAddr = s.devAddr)
    (hlo : u.fcntLo = s.fcntLo) (hhi : u.fcntHi = s.fcntHi) (i : Nat) :
    keystreamBlock ark i u = keystreamBlock ark i s := by
  simp only [keystreamBlock, counterBlock, sessionBlock, hkey, haddr, hlo, hhi]

/-- The keystream byte that PAYLOAD XORs into byte `k` of BUF (R142). -/
def keystreamByte (k : Nat) : Byte := (keystreamBlock ark (k / 16 + 1) s)[k % 16]'(Nat.mod_lt _ (by decide))

theorem keystreamByte_eq_getD (k : Nat) :
    keystreamByte true s k = (keystream s (k / 16 + 1)).toList.getD (k % 16) 0x00 := by
  rw [keystreamByte, keystreamBlock_eq]
  exact (getD_toList (keystream s (k / 16 + 1)) ⟨k % 16, Nat.mod_lt _ (by decide)⟩).symm

/-! ## The effect of PAYLOAD -/

/-- BUF after PAYLOAD: each index below LEN lies in one of the `ceil(LEN/16)` blocks (R142). -/
theorem payloadRun_buf_get (k : Fin 64) : (payloadRun ark s).buf[k] =
    if k.val < s.len.toNat then s.buf[k] ^^^ keystreamByte ark s k.val else s.buf[k] := by
  have hblock : (k.val / 16 < blockCount s ∧ k.val < s.len.toNat) ↔ k.val < s.len.toNat := by
    rw [blockCount]
    omega
  rw [payloadRun_eq, payloadAfter_buf]
  simp [bufAfter, hblock, keystreamByte]

/-- With at least one block, what PAYLOAD leaves besides BUF is what the last encryption left, in terms of the standard
(R132, R142). -/
theorem payloadRun_of_len_pos (hlen : 1 ≤ s.len.toNat) : payloadRun true s = { s with
    buf := (payloadRun true s).buf, block := keystream s (blockCount s),
    state := inStateOrder (keystream s (blockCount s)), rk := roundKey s.keyApp 10, rcon := 0x6C, round := 10 } := by
  obtain ⟨n, hcount⟩ : ∃ n, blockCount s = n + 1 := Nat.exists_eq_add_one.2 (by rw [blockCount]; omega)
  rw [payloadRun_eq, hcount, payloadAfter, encrypted_eq]
  rfl

/-- PAYLOAD completes with the effect it has with the initial key addition (R62, R142). -/
theorem exec_payload (hark : Config.initialArk = true) : exec .payload s = .next (complete (payloadRun true s)) := by
  rw [← hark]
  exact exec_command .payload s rfl

/-! ## PAYLOAD twice -/

/-- A byte below LEN meets the same keystream byte again and comes back (R143). -/
theorem payloadRun_buf_get_again {s u : State} (hbuf : u.buf = (payloadRun ark s).buf) (hlen : u.len = s.len)
    (hstream : ∀ i, keystreamBlock ark i u = keystreamBlock ark i s) {k : Fin 64} (hk : k.val < s.len.toNat) :
    (payloadRun ark u).buf[k] = s.buf[k] := by
  have hbyte : keystreamByte ark u k.val = keystreamByte ark s k.val := by rw [keystreamByte, keystreamByte, hstream]
  rw [payloadRun_buf_get, hlen, if_pos hk, hbuf, payloadRun_buf_get, if_pos hk, hbyte, BitVec.xor_assoc,
    BitVec.xor_self, BitVec.xor_zero]

end Sys2Proof.Machine

open Sys2Proof Sys2Proof.Machine

/-- Settles O28: BUF byte by byte, and the registers AES_RUN writes by its last run; with LEN 0 it is never run. -/
theorem payloadXorsKeystream : Obligations.PayloadXorsKeystream := by
  intro hark
  refine ⟨onlyByte_of_decodeCommand rfl, illegalByte_of_decodeCommand rfl, fun s =>
    ⟨fun hlen => ?_, fun hlen _ => ?_⟩⟩
  · have hzero : s.len = 0x00 := BitVec.eq_of_toNat_eq hlen
    rw [exec_payload s hark, payloadRun_of_len_zero s true hzero]
    rfl
  · refine ⟨(payloadRun true s).buf, ?_, fun k => ?_⟩
    · exact (exec_payload s hark).trans (congrArg (Host.Outcome.next ∘ complete) (payloadRun_of_len_pos s hlen))
    · rw [payloadRun_buf_get, keystreamByte_eq_getD]

/-- Settles O29: the second run XORs the same keystream into the same bytes. -/
theorem payloadIsInvolution : Obligations.PayloadIsInvolution := by
  intro s _
  refine ⟨_, exec_command .payload s rfl, fun u hbuf hlen haddr hkey hlo hhi => ?_⟩
  refine ⟨_, exec_command .payload u rfl, fun k hk => ?_⟩
  exact payloadRun_buf_get_again _ hbuf hlen (keystreamBlock_congr _ hkey haddr hlo hhi) hk

end

section
/-! DBL (43_mic_generator.md R150, R153): the shift of a block as the doubling of a 128-bit number, bit by bit. -/

namespace Sys2Proof.Machine

open Sys2Proof.Claims

/-! ## A block as a number, bit by bit -/

/-- The bits of a number written in bytes, most significant byte first. -/
theorem testBit_foldl_bytes (l : List Byte) (i : Nat) :
    (l.foldl (fun acc x => acc * 256 + BitVec.toNat x) 0).testBit i = (l.reverse.getD (i / 8) 0x00).getLsbD (i % 8) := by
  induction l using List.reverseRecOn generalizing i with
  | nil => simp
  | append_singleton l x ih =>
    have hx : x.toNat < 2 ^ 8 := x.isLt
    have hshift (n : Nat) : n * 256 = 2 ^ 8 * n := Nat.mul_comm n _
    rw [List.foldl_concat, hshift, Nat.testBit_two_pow_mul_add _ hx, List.reverse_concat]
    by_cases hi : i < 8
    · rw [if_pos hi, Nat.div_eq_of_lt hi, Nat.mod_eq_of_lt hi]
      rfl
    · obtain ⟨m, rfl⟩ := Nat.exists_eq_add_of_le (Nat.le_of_not_lt hi)
      rw [if_neg hi, ih, Nat.add_sub_cancel_left, Nat.add_mod_left, Nat.add_div_left m (by decide)]
      rfl

/-- The place of bit `k` of byte `j` in the number: byte 0 is the most significant (R54, R150). -/
def bitPlace (j : Fin 16) (k : Nat) : Nat := 8 * (15 - j.val) + k

theorem exists_bitPlace {i : Nat} (h : i < 128) : ∃ j k, k < 8 ∧ i = bitPlace j k :=
  ⟨⟨15 - i / 8, by omega⟩, i % 8, Nat.mod_lt i (by decide), by simp only [bitPlace]; omega⟩

theorem testBit_number (b : Block) (j : Fin 16) {k : Nat} (hk : k < 8) :
    (number b).testBit (bitPlace j k) = b[j].getLsbD k := by
  have hdiv : bitPlace j k / 8 = 15 - j.val := by rw [bitPlace]; omega
  have hmod : bitPlace j k % 8 = k := by rw [bitPlace]; omega
  have hrev : b.toList.reverse.getD (15 - j.val) 0x00 = b[j] := by
    rw [List.getD_reverse _ (by rw [Vector.length_toList]; omega), Vector.length_toList, ← getD_toList]
    congr 1
    omega
  rw [number, testBit_foldl_bytes, hdiv, hmod, hrev]

theorem getLsbD_ofNumber (n : Nat) (j : Fin 16) {k : Nat} (hk : k < 8) :
    (ofNumber n)[j].getLsbD k = n.testBit (bitPlace j k) := by
  have hbyte : (ofNumber n)[j] = BitVec.ofNat 8 (n / 2 ^ (8 * (15 - j.val))) := by
    simp [ofNumber, Nat.pow_mul]
  rw [hbyte, BitVec.getLsbD_ofNat, Nat.testBit_div_two_pow, decide_eq_true hk, Bool.true_and, bitPlace, Nat.add_comm]

theorem number_lt (b : Block) : number b < 2 ^ 128 := by
  refine Nat.lt_pow_two_of_testBit _ fun i hi => ?_
  have hlen : b.toList.reverse.length ≤ i / 8 := by simp; omega
  rw [number, testBit_foldl_bytes, List.getD_eq_default _ _ hlen]
  exact BitVec.getLsbD_zero

/-- Two blocks are equal when all their bits are. -/
theorem block_ext_bits {x y : Block} (h : ∀ (j : Fin 16) (k : Nat), k < 8 → x[j].getLsbD k = y[j].getLsbD k) : x = y :=
  Vector.ext fun j hj => BitVec.eq_of_getLsbD_eq fun k hk => h ⟨j, hj⟩ k hk

theorem number_ofNumber {n : Nat} (h : n < 2 ^ 128) : number (ofNumber n) = n := by
  refine Nat.eq_of_testBit_eq fun i => ?_
  by_cases hi : i < 128
  · obtain ⟨j, k, hk, rfl⟩ := exists_bitPlace hi
    rw [testBit_number _ j hk, getLsbD_ofNumber n j hk]
  · have hpow : 2 ^ 128 ≤ 2 ^ i := Nat.pow_le_pow_right (by decide) (Nat.le_of_not_lt hi)
    rw [Nat.testBit_lt_two_pow ((number_lt _).trans_le hpow), Nat.testBit_lt_two_pow (h.trans_le hpow)]

theorem ofNumber_zero : ofNumber 0 = zeroBlock := by
  simp [ofNumber, zeroBlock]

/-! ## Doubling -/

theorem doubled_lt {n : Nat} (h : n < 2 ^ 128) : doubled n < 2 ^ 128 := by
  rw [doubled]
  split
  · exact Nat.xor_lt_two_pow (Nat.mod_lt _ (by decide)) (by decide)
  · omega

theorem testBit_top_iff {n : Nat} (h : n < 2 ^ 128) : n.testBit 127 = true ↔ 2 ^ 127 ≤ n := by
  rw [Nat.testBit_eq_decide_div_mod_eq, decide_eq_true_iff]
  omega

/-- The bits of a doubled number: those below moved up by one, and the reduction where the top bit was set. -/
theorem testBit_doubled {n i : Nat} (h : n < 2 ^ 128) (hi : i < 128) : (doubled n).testBit i =
    ((decide (1 ≤ i) && n.testBit (i - 1)) ^^ (n.testBit 127 && Nat.testBit 0x87 i)) := by
  have hshift : (2 * n).testBit i = (decide (1 ≤ i) && n.testBit (i - 1)) := Nat.testBit_two_pow_mul (i := 1)
  rw [doubled]
  by_cases htop : 2 ^ 127 ≤ n
  · rw [if_pos htop, (testBit_top_iff h).2 htop, Nat.testBit_xor, Nat.testBit_mod_two_pow, decide_eq_true hi, hshift,
      Bool.true_and, Bool.true_and]
  · have hbit : n.testBit 127 = false := Bool.eq_false_iff.2 (htop ∘ (testBit_top_iff h).1)
    rw [if_neg htop, hbit, hshift, Bool.false_and, Bool.xor_false]

/-- A shifted byte holds the bits one place below its own (R150). -/
theorem getLsbD_shiftedByte (b : Block) (j : Fin 16) {k : Nat} (hk : k < 8) :
    (shiftedByte b j.val j.isLt).getLsbD k =
      (decide (1 ≤ bitPlace j k) && (number b).testBit (bitPlace j k - 1)) := by
  cases k with
  | zero =>
    by_cases hj : j.val + 1 < 16
    · have hplace : bitPlace j 0 - 1 = bitPlace ⟨j.val + 1, hj⟩ 7 := by simp only [bitPlace]; omega
      have hpos : 1 ≤ bitPlace j 0 := by rw [bitPlace]; omega
      rw [hplace, testBit_number b _ (by decide), decide_eq_true hpos]
      simp [shiftedByte, hj]
    · have hzero : bitPlace j 0 = 0 := by rw [bitPlace]; omega
      simp [shiftedByte, hj, hzero]
  | succ k =>
    have hplace : bitPlace j (k + 1) - 1 = bitPlace j k := rfl
    have hpos : 1 ≤ bitPlace j (k + 1) := Nat.succ_pos _
    have hlow : (if h : j.val + 1 < 16 then b[j.val + 1] >>> 7 else 0x00).getLsbD (k + 1) = false := by
      split
      · rw [BitVec.getLsbD_ushiftRight]
        exact BitVec.getLsbD_of_ge _ _ (by omega)
      · exact BitVec.getLsbD_zero
    have hhigh : (b[j.val] <<< 1).getLsbD (k + 1) = b[j.val].getLsbD k := by
      rw [BitVec.getLsbD_shiftLeft, Nat.add_sub_cancel, decide_eq_true hk, decide_eq_false (by omega)]
      rfl
    rw [hplace, testBit_number b j (by omega), decide_eq_true hpos, shiftedByte, BitVec.getLsbD_or, hlow, hhigh,
      Bool.or_false]
    rfl

/-- The reduction byte stands in byte 15. -/
theorem testBit_reduction (j : Fin 16) {k : Nat} (hk : k < 8) :
    Nat.testBit 0x87 (bitPlace j k) = (decide (j.val = 15) && (0x87 : Byte).getLsbD k) := by
  by_cases hj : j.val = 15
  · rw [bitPlace, hj, decide_eq_true rfl, Nat.sub_self, Nat.mul_zero, Nat.zero_add]
    rfl
  · have hlarge : 2 ^ 8 ≤ 2 ^ bitPlace j k := Nat.pow_le_pow_right (by decide) (by rw [bitPlace]; omega)
    rw [decide_eq_false hj, Nat.testBit_lt_two_pow (Nat.lt_of_lt_of_le (by decide) hlarge), Bool.false_and]

theorem dblBlock_get (b : Block) (j : Fin 16) : (dblBlock b)[j] =
    if b[0].getLsbD 7 ∧ j.val = 15 then shiftedByte b j.val j.isLt ^^^ 0x87 else shiftedByte b j.val j.isLt := by
  simp [dblBlock]

/-- All bytes but the last are shifted alone. -/
theorem dblBlock_get_shifted (b : Block) (i : Fin 15) :
    (dblBlock b)[i.val] = (b[i.val] <<< 1) ||| (b[i.val + 1] >>> 7) := by
  have hlast : ¬(b[0].getLsbD 7 = true ∧ i.val = 15) := by omega
  have hnext : i.val + 1 < 16 := by omega
  refine ((dblBlock_get b i.castSucc).trans (if_neg hlast)).trans ?_
  simp only [shiftedByte, Fin.val_castSucc, dif_pos hnext]

/-- Into the last byte a zero is shifted, and the reduction falls there. -/
theorem dblBlock_get_last (b : Block) :
    (dblBlock b)[15] = if b[0].getLsbD 7 then (b[15] <<< 1) ^^^ 0x87 else b[15] <<< 1 := by
  have hshift : shiftedByte b 15 (by decide) = b[15] <<< 1 := BitVec.or_zero
  refine (dblBlock_get b 15).trans ?_
  simp [hshift]

/-- Doubling the number is doubling the block (R150). -/
theorem ofNumber_doubled_number (b : Block) : ofNumber (doubled (number b)) = dblBlock b := by
  refine block_ext_bits fun j k hk => ?_
  have hplace : bitPlace j k < 128 := by rw [bitPlace]; omega
  have htop : (number b).testBit 127 = b[0].getLsbD 7 := testBit_number b 0 (k := 7) (by decide)
  rw [getLsbD_ofNumber _ j hk, testBit_doubled (number_lt b) hplace, htop, testBit_reduction j hk,
    ← getLsbD_shiftedByte b j hk, dblBlock_get]
  by_cases hred : b[0].getLsbD 7 = true ∧ j.val = 15
  · rw [if_pos hred, hred.1, decide_eq_true hred.2, BitVec.getLsbD_xor, Bool.true_and, Bool.true_and]
  · have hoff : (b[0].getLsbD 7 && decide (j.val = 15)) = false := by simpa using hred
    rw [if_neg hred, ← Bool.and_assoc, hoff, Bool.false_and, Bool.xor_false]

theorem number_dblBlock (b : Block) : number (dblBlock b) = doubled (number b) := by
  rw [← ofNumber_doubled_number, number_ofNumber (doubled_lt (number_lt b))]

end Sys2Proof.Machine

open Sys2Proof Sys2Proof.Machine

/-- Settles O30: the shift and the reduction moved to the bits of the number. -/
theorem dblDoublesBlock : Obligations.DblDoublesBlock := by
  refine ⟨onlyByte_of_decodeCommand rfl, illegalByte_of_decodeCommand rfl, fun s => ⟨dblBlock s.block, rfl, ?_, ?_, ?_⟩⟩
  · exact dblBlock_get_shifted s.block
  · exact dblBlock_get_last s.block
  · exact number_dblBlock s.block

end

section
/-! MIC (43_mic_generator.md R151 to R157): the model's chain over BUF against CMAC on the message as a list of bytes. -/

namespace Sys2Proof.Machine

open Sys2Proof.Claims

/-! ## CMAC of any block cipher -/

theorem cmacK1_eq (e : Block → Block) : cmacK1 e = dblBlock (e zeroBlock) := by
  rw [cmacK1, ofNumber_zero, ofNumber_doubled_number]

theorem cmacK2_eq (e : Block → Block) : cmacK2 e = dblBlock (dblBlock (e zeroBlock)) := by
  rw [cmacK2, ofNumber_doubled_number, cmacK1_eq]

theorem getElem_blockOf (m : List Byte) {j : Nat} (hj : j < 16) : (blockOf m)[j] = m.getD j 0x00 := by simp [blockOf]

theorem blockOf_take (m : List Byte) : blockOf (m.take 16) = blockOf m := by
  refine Vector.ext fun j hj => ?_
  simp [blockOf]

theorem blockOf_toList (b : Block) : blockOf b.toList = b :=
  Vector.ext fun j hj => (getElem_blockOf b.toList hj).trans (getD_toList b ⟨j, hj⟩)

theorem xorBlock_zero (b : Block) : xorBlock b (ofNumber 0) = b := by
  rw [ofNumber_zero]
  refine Vector.ext fun j hj => (xorBlock_get b zeroBlock ⟨j, hj⟩).trans ?_
  simp [zeroBlock]

variable (e : Block → Block) (k1 k2 x : Block)

/-- A message that fits in a block ends the chain. -/
theorem cmacChain_last (fuel : Nat) {m : List Byte} (h : m.length ≤ 16) :
    cmacChain e k1 k2 (fuel + 1) x m = (x, e (xorBlock (cmacLastBlock k1 k2 m) x)) := by
  rw [cmacChain, if_pos h]

/-- A longer one is chained by its first block. -/
theorem cmacChain_step (fuel : Nat) {m : List Byte} (h : 16 < m.length) :
    cmacChain e k1 k2 (fuel + 1) x m =
      cmacChain e k1 k2 fuel (e (xorBlock (blockOf (m.take 16)) x)) (m.drop 16) := by
  rw [cmacChain, if_neg (Nat.not_le_of_lt h)]

/-! ## The message in BUF -/

variable (s : State)

/-- The bytes the MIC covers: `BUF[0..LEN-1]` (R155). -/
def micPayload : List Byte := s.buf.toList.take s.len.toNat

/-- What is left of them after `n` message blocks. -/
def micPayloadFrom (n : Nat) : List Byte := (micPayload s).drop (16 * n)

theorem length_micPayloadFrom (n : Nat) (hmax : s.len.toNat ≤ 64) :
    (micPayloadFrom s n).length = s.len.toNat - 16 * n := by
  simp [micPayloadFrom, micPayload, hmax]

theorem getD_micPayloadFrom (n j : Nat) (h : 16 * n + j < s.len.toNat) :
    (micPayloadFrom s n).getD j 0x00 = bufByte s (16 * n + j) := by
  rw [micPayloadFrom, micPayload, bufByte, List.getD_eq_getElem?_getD, List.getElem?_drop, List.getElem?_take_of_lt h]
  by_cases hk : 16 * n + j < 64 <;> simp [hk]

/-- A full block of the message is the block of BUF that MIC reads (R154). -/
theorem blockOf_micPayloadFrom (n : Nat) (h : 16 * (n + 1) ≤ s.len.toNat) :
    blockOf (micPayloadFrom s n) = messageBlock (n + 1) s := by
  refine Vector.ext fun j hj => (getElem_blockOf _ hj).trans ?_
  rw [getD_micPayloadFrom s n j (by omega)]
  simp [messageBlock]

/-- A shorter last block gets the byte 0x80 and zeros on both sides (R154). -/
theorem blockOf_micPayloadFrom_padded (n : Nat) (hpos : 16 * n < s.len.toNat) (hend : s.len.toNat < 16 * (n + 1))
    (hmax : s.len.toNat ≤ 64) :
    blockOf (micPayloadFrom s n ++ [0x80]) = paddedBlock (n + 1) (s.len.toNat % 16) s := by
  have hlength : (micPayloadFrom s n).length = s.len.toNat % 16 := by rw [length_micPayloadFrom s n hmax]; omega
  refine Vector.ext fun j hj => (getElem_blockOf _ hj).trans ?_
  rw [paddedBlock, Vector.getElem_ofFn]
  by_cases hlt : j < s.len.toNat % 16
  · rw [if_pos hlt, List.getD_append _ _ _ _ (hlength ▸ hlt), getD_micPayloadFrom s n j (by omega), Nat.add_sub_cancel]
  · rw [if_neg hlt, List.getD_append_right _ _ _ _ (by omega), hlength]
    by_cases heq : j = s.len.toNat % 16
    · rw [if_pos heq, heq, Nat.sub_self]
      rfl
    · rw [if_neg heq, List.getD_eq_default _ _ (by rw [List.length_singleton]; omega)]

/-- What enters the last encryption is CMAC's last block and the chain value (R154). -/
theorem xorBlock_cmacLastBlock (n : Nat) (hpos : 16 * n < s.len.toNat) (hend : s.len.toNat ≤ 16 * (n + 1))
    (hmax : s.len.toNat ≤ 64) :
    xorBlock (cmacLastBlock k1 k2 (micPayloadFrom s n)) x = lastInputOf k1 k2 x s := by
  have hcount : blockCount s = n + 1 := by rw [blockCount]; omega
  rw [cmacLastBlock, lastInputOf, hcount, length_micPayloadFrom s n hmax]
  by_cases hfull : s.len.toNat % 16 = 0
  · rw [if_pos hfull, if_pos (by omega), blockOf_micPayloadFrom s n (by omega)]
  · rw [if_neg hfull, if_neg (by omega), blockOf_micPayloadFrom_padded s n hpos (by omega) hmax]

/-! ## The chain -/

variable (ark : Bool)

/-- From message block `n + 1` on, with enough fuel, CMAC's chain runs as MIC's loop does (R154, R157). -/
theorem cmacChain_micPayloadFrom (fuel n : Nat) (hpos : 16 * n < s.len.toNat) (hfuel : s.len.toNat ≤ 16 * (n + fuel))
    (hmax : s.len.toNat ≤ 64) :
    cmacChain (cipherBlock ark s.keyNwk) k1 k2 fuel (chainAfter ark s n) (micPayloadFrom s n) =
      (chainAfter ark s (blockCount s - 1),
        cipherBlock ark s.keyNwk (lastInputOf k1 k2 (chainAfter ark s (blockCount s - 1)) s)) := by
  induction fuel generalizing n with
  | zero => omega
  | succ fuel ih =>
    have hlength := length_micPayloadFrom s n hmax
    by_cases hlast : s.len.toNat ≤ 16 * (n + 1)
    · have hcount : blockCount s - 1 = n := by rw [blockCount]; omega
      rw [cmacChain_last _ _ _ _ _ (by omega), xorBlock_cmacLastBlock k1 k2 _ s n hpos hlast hmax, hcount]
    · have hdrop : (micPayloadFrom s n).drop 16 = micPayloadFrom s (n + 1) := List.drop_drop
      rw [cmacChain_step _ _ _ _ _ (by omega), blockOf_take, blockOf_micPayloadFrom s n (by omega), ← chainAfter, hdrop]
      exact ih (n + 1) (by omega) (by omega)

/-- The chain value and the tag that MIC computes are CMAC's on block B(LEN) and the message, with and without the
initial key addition (R155). -/
theorem cmac_micMessage (hmin : 1 ≤ s.len.toNat) (hmax : s.len.toNat ≤ 64) :
    cmac (cipherBlock ark s.keyNwk) (micMessage s) = (chainAfter ark s (blockCount s - 1), micTag ark s) := by
  have hsplit : micMessage s = (blockB s).toList ++ micPayloadFrom s 0 := rfl
  have hheader : (blockB s).toList.length = 16 := Vector.length_toList
  have hlength := length_micPayloadFrom s 0 hmax
  have hlong : 16 < (micMessage s).length := by rw [hsplit, List.length_append]; omega
  have htake : (micMessage s).take 16 = (blockB s).toList := by rw [hsplit, List.take_left' hheader]
  have hdrop : (micMessage s).drop 16 = micPayloadFrom s 0 := by rw [hsplit, List.drop_left' hheader]
  have hseed : cipherBlock ark s.keyNwk (blockB s) = chainAfter ark s 0 := rfl
  rw [cmac, cmacChain_step _ _ _ _ _ hlong, htake, hdrop, blockOf_toList, xorBlock_zero, hseed,
    cmacChain_micPayloadFrom _ _ s ark 4 0 (by omega) (by omega) hmax, cmacK1_eq, cmacK2_eq]
  rfl

/-! ## The registers -/

/-- What MIC leaves in BLOCK is the tag, and in MIC its first four bytes (R53, R154). -/
theorem micRun_block : (micRun ark s).block = micTag ark s := by
  rw [micRun_eq]
  rfl

theorem micRun_mic : (micRun ark s).mic =
    #v[(micTag ark s)[0], (micTag ark s)[1], (micTag ark s)[2], (micTag ark s)[3]] := by
  rw [micRun_eq]
  rfl

/-- What MIC leaves in the registers it writes, from the tag, the last chain value, the subkeys and the last round key. -/
def withMicResult (tag chain k1 k2 key : Block) (s : State) : State :=
  { s with
    mic := #v[tag[0], tag[1], tag[2], tag[3]], block := tag, state := inStateOrder tag, rk := key, rcon := 0x6C,
    round := 10, k1 := k1, k2 := k2, chain := chain }

/-- With the initial key addition these are the standard's (R132, R151, R154). -/
theorem micRun_eq_withMicResult : micRun true s =
    withMicResult (micTag true s) (chainAfter true s (blockCount s - 1)) (cmacK1 (fipsEncrypt s.keyNwk))
      (cmacK2 (fipsEncrypt s.keyNwk)) (roundKey s.keyNwk 10) s := by
  rw [micRun_eq, micState, encrypted_eq, ← cipherBlock_eq, cmacK1_eq, cmacK2_eq, ← cipherBlock_eq]
  rfl

theorem complete_withMicResult (tag chain k1 k2 key : Block) : complete (withMicResult tag chain k1 k2 key s) = { s with
    mic := #v[tag[0], tag[1], tag[2], tag[3]], block := tag, state := inStateOrder tag, rk := key, rcon := 0x6C,
    round := 10, k1 := k1, k2 := k2, chain := chain, busy := false, done := true } := rfl

theorem exec_mic : exec .mic s = .next (complete (micRun Config.initialArk s)) := exec_command .mic s rfl

/-! ## What the MIC depends on -/

/-- The bytes below LEN are all of BUF that the message holds (R155, R156). -/
theorem micPayload_congr {s t : State} (hlen : t.len = s.len)
    (hbuf : ∀ k : Fin 64, k.val < s.len.toNat → t.buf[k] = s.buf[k]) : micPayload t = micPayload s := by
  refine List.ext_getElem (by simp [micPayload, hlen]) fun k hk _ => ?_
  simp only [micPayload, List.length_take, Vector.length_toList, hlen] at hk
  simp only [micPayload, List.getElem_take, Vector.getElem_toList]
  exact hbuf ⟨k, by omega⟩ (show k < _ by omega)

/-- The message is a function of BUF below LEN, LEN, DEVADDR and FCNT (R152, R155). -/
theorem micMessage_congr {s t : State} (hlen : t.len = s.len) (haddr : t.devAddr = s.devAddr) (hlo : t.fcntLo = s.fcntLo)
    (hhi : t.fcntHi = s.fcntHi) (hbuf : ∀ k : Fin 64, k.val < s.len.toNat → t.buf[k] = s.buf[k]) :
    micMessage t = micMessage s := by
  have hheader : blockB t = blockB s := by simp only [blockB, hlen, haddr, hlo, hhi]
  have hpayload : micPayload t = micPayload s := micPayload_congr hlen hbuf
  rw [micMessage, hheader]
  exact congrArg _ hpayload

end Sys2Proof.Machine

open Sys2Proof Sys2Proof.Machine Sys2Proof.Claims

/-- Settles O31: MIC's loop over BUF is CMAC's chain over the message, and the doubled blocks are its subkeys. -/
theorem micIsCmacOfHeaderAndMessage : Obligations.MicIsCmacOfHeaderAndMessage := by
  intro hark
  refine ⟨onlyByte_of_decodeCommand rfl, illegalByte_of_decodeCommand rfl, fun s hmin hmax => ?_⟩
  have hcipher : cipherBlock true s.keyNwk = fipsEncrypt s.keyNwk := funext (cipherBlock_eq s.keyNwk)
  have hcmac := hcipher ▸ cmac_micMessage s true hmin hmax
  have hchain : chainAfter true s (blockCount s - 1) = (cmac (fipsEncrypt s.keyNwk) (micMessage s)).1 := by rw [hcmac]
  have htag : micTag true s = (cmac (fipsEncrypt s.keyNwk) (micMessage s)).2 := by rw [hcmac]
  rw [exec_mic, hark, micRun_eq_withMicResult, hchain, htag]
  exact congrArg Host.Outcome.next (complete_withMicResult s _ _ _ _ _)

/-- Settles O32: the tag is the CMAC of the message under KEY_NWK, and the two states have the same message. -/
theorem micDependsOnInputsOnly : Obligations.MicDependsOnInputsOnly := by
  intro s t hmin hmax hlen hkey haddr hlo hhi hbuf
  have htag : micTag Config.initialArk s = micTag Config.initialArk t := by
    have hs := cmac_micMessage s Config.initialArk hmin hmax
    have ht := cmac_micMessage t Config.initialArk (hlen ▸ hmin) (hlen ▸ hmax)
    rw [hkey, micMessage_congr hlen haddr hlo hhi hbuf, hs] at ht
    exact (Prod.mk.inj ht).2
  refine ⟨_, _, exec_mic s, exec_mic t, ?_, ?_⟩
  · rw [complete_mic, complete_mic, micRun_mic, micRun_mic, htag]
  · rw [complete_block, complete_block, micRun_block, micRun_block, htag]

end

section
/-! STATUS.ERR (60_exceptions.md R171 to R175, R178): a host write alone changes it, and the operation that handles the
write says in which way. -/

namespace Sys2Proof.Machine

variable {s t : State}

/-- An acknowledge changes ERR by clearing it, in no other way (R59, R178). -/
theorem errAfterAck_eq_none_of_ne {v : Byte} {err : ErrCode} (h : errAfterAck v err ≠ err) :
    errAfterAck v err = .none := by
  rw [errAfterAck] at h ⊢
  split at h
  case isTrue hclear => exact if_pos hclear
  case isFalse => exact absurd rfl h

/-- Raising an error changes ERR only if no error was recorded, and then to the error raised (R173). -/
theorem raiseError_err_of_ne {e : ErrCode} (h : (raiseError e s).err ≠ s.err) :
    s.err = .none ∧ (raiseError e s).err = e := by
  have hnone : s.err = .none := by
    by_contra herr
    exact h (if_neg herr)
  exact ⟨hnone, if_pos hnone⟩

/-- A write to CMD changes ERR by one of its two refusals (R171, R172). -/
theorem writeCommand_err_of_ne {v : Byte} (h : (writeCommand v s).err ≠ s.err) :
    s.err = .none ∧ ((writeCommand v s).err = .illegalCmd ∨ (writeCommand v s).err = .lenRange) := by
  obtain ⟨-, hw⟩ | ⟨-, -, hw⟩ | ⟨-, -, hw⟩ | ⟨-, -, hw⟩ := writeCommand_cases s v <;> rw [hw] at h ⊢
  · exact absurd rfl h
  · exact (raiseError_err_of_ne h).imp_right .inl
  · exact (raiseError_err_of_ne h).imp_right .inr
  · exact absurd (accept_err s v) h

/-- The host writes that change ERR: an acknowledge, a write while busy, a refused command (R171 to R175, R178). -/
theorem hostWrite_err_of_ne {a : Addr} {v : Byte} (h : (hostWrite a v s).err ≠ s.err) :
    (a = statusAddr ∧ (hostWrite a v s).err = .none) ∨
    (a ≠ statusAddr ∧ s.err = .none ∧ s.busy = true ∧ (hostWrite a v s).err = .busyAccess) ∨
    (a = cmdAddr ∧ s.err = .none ∧ s.busy = false ∧
      ((hostWrite a v s).err = .illegalCmd ∨ (hostWrite a v s).err = .lenRange)) := by
  obtain ⟨ha, hw⟩ | ⟨ha, hbusy, hw⟩ | ⟨ha, hidle, hw⟩ | ⟨-, -, -, hw⟩ := hostWrite_cases s a v <;> rw [hw] at h ⊢
  · exact .inl ⟨ha, errAfterAck_eq_none_of_ne h⟩
  · obtain ⟨hnone, hraised⟩ := raiseError_err_of_ne h
    exact .inr (.inl ⟨ha, hnone, hbusy, hraised⟩)
  · obtain ⟨hnone, hrefused⟩ := writeCommand_err_of_ne h
    exact .inr (.inr ⟨ha, hnone, hidle, hrefused⟩)
  · rw [storeLoc_frame] at h
    exact absurd rfl h

/-- Only a write changes ERR: a read changes no register (R56), and ERR is in no command's write set (R45). -/
theorem exists_write_of_err_ne {i : Instr} (he : exec i s = .next t) (h : t.err ≠ s.err) :
    ∃ (a : Addr) (v : Byte), i = .wr a v ∧ t.err = (hostWrite a v s).err := by
  cases hformat : i.format with
  | cmd =>
    cases (exec_command i s hformat).symm.trans he
    exact absurd (commandEffect_err i) h
  | bus =>
    cases i with
    | rd a d => cases (exec_rd a d s).symm.trans he; exact absurd rfl h
    | wr a v => cases (exec_wr a v s).symm.trans he; exact ⟨a, v, rfl, rfl⟩
    | _ => cases hformat

end Sys2Proof.Machine

open Sys2Proof Sys2Proof.Machine

/-- Settles O14: the instruction is a write, and of the host writes three change ERR. -/
theorem errChangesOnlyByWrites : Obligations.ErrChangesOnlyByWrites := by
  intro i s t he hne
  obtain ⟨a, v, hi, herr⟩ := exists_write_of_err_ne he hne
  rw [herr] at hne ⊢
  exact ⟨a, v, hi, hostWrite_err_of_ne hne⟩

/-- Settles O13: while busy a host write at any other address than STATUS's raises BUSY_ACCESS and does nothing else. -/
theorem busyWriteDropped : Obligations.BusyWriteDropped := by
  intro s a v hbusy ha
  refine ⟨Config.writeReturn s.draws a v (image s), s.draws + 1, ?_⟩
  rw [exec_wr, hostWrite_busy s a v ha hbusy]
  rfl

end

section
/-! The core never halts, and a reset clears STATUS and CMD (R190, R191, R197). Whoever has the turn, something
can be done in it: the one fault is the sequencer's, with BUSY = 1 and no legal command in CMD, and the invariant shuts
it out. -/

namespace Sys2Proof.Machine

variable {s : State} {sch : List Turn}

/-- The host has something to issue while its program is not at the end. -/
theorem exists_hostIssue_cons (v : Byte) (op : HostOp) (p : List HostOp) :
    ∃ i rest, hostIssue v (op :: p) = some (i, rest) := by
  cases op <;> exact ⟨_, _, rfl⟩

/-- In the host's turn nothing can go wrong: no transaction is refused, and a program may be at its end (R56, R57). -/
theorem safe_of_hostTurn (hturn : HostTurn s sch) : Safe s := by
  cases hprogram : s.program with
  | nil => exact ⟨_, step_host_done hturn hprogram⟩
  | cons op p =>
    obtain ⟨i, rest, hissue⟩ := exists_hostIssue_cons (hostRead statusAddr s) op p
    rw [Safe, step_host hturn (by rw [hprogram, hissue])]
    exact exec_answers_next i _

/-- In the sequencer's turn a legal command completes (R62). -/
theorem safe_of_sequencerTurn (hturn : SequencerTurn s sch) (hinv : CoreInv s) (hbusy : s.busy = true) : Safe s := by
  obtain ⟨i, hdecode⟩ := exists_command_of_busy hinv hbusy
  rw [Safe, step_sequencer hturn hbusy hdecode]
  exact exec_answers_next i _

/-- Whoever has the turn, and with the schedule used up BUSY says who has it (R62). -/
theorem safe_of_coreInv (hinv : CoreInv s) : Safe s := by
  cases hschedule : s.schedule with
  | nil =>
    cases hbusy : s.busy with
    | true => exact safe_of_sequencerTurn (.inr ⟨hschedule, rfl, hbusy⟩) hinv hbusy
    | false => exact safe_of_hostTurn (.inr ⟨hschedule, rfl, hbusy⟩)
  | cons turn sch =>
    cases turn with
    | host => exact safe_of_hostTurn (.inl hschedule)
    | sequencer =>
      cases hbusy : s.busy with
      | true => exact safe_of_sequencerTurn (.inl hschedule) hinv hbusy
      | false => exact ⟨_, step_sequencer_idle hschedule hbusy⟩
    | reset => exact ⟨_, step_reset hschedule⟩

/-- With nothing left to do the step changes nothing (R191, R197). -/
theorem step_of_nothing_left (hidle : s.busy = false) (hschedule : s.schedule = []) (hprogram : s.program = []) :
    step s = .next s := by
  rw [step_host_done (.inr ⟨hschedule, rfl, hidle⟩) hprogram, schedule_nil hschedule]

/-- A reset leaves STATUS at 0x00 (R191). -/
theorem statusByte_resetEvent (s : State) : statusByte (resetEvent s) = 0x00 :=
  calc statusByte (resetEvent s)
    _ = statusByte State.reset := rfl
    _ = 0x00 := by decide

end Sys2Proof.Machine

open Sys2Proof Sys2Proof.Machine

/-- Settles O40: turn by turn, the sequencer's by the invariant. -/
theorem coreNeverHalts : Obligations.CoreNeverHalts :=
  ⟨fun _ => safe_of_coreInv, fun _ => step_of_nothing_left⟩

/-- Settles O37: the step of a reset is the reset event, which sets STATUS and CMD without looking at what was running. -/
theorem resetDiscardsCommand : Obligations.ResetDiscardsCommand := by
  intro s sch hschedule
  exact ⟨_, step_reset hschedule, rfl, rfl, rfl, rfl, mapped_status.trans (statusByte_resetEvent _), rfl, rfl, rfl⟩

end
